-- ==== Sys2Proof/Word.lean ====
section
/-! DEFINITION. The plain data every other file speaks of: bytes, window words, the 4×4 byte state, 16-byte blocks, the
round-key file and the names of the error codes (00_scope.md R11 to R13, 60_exceptions.md R201). -/

namespace Sys2Proof

/-- A field element: a byte, bit i being the coefficient of x^i (R11). -/
abbrev Byte := BitVec 8

/-- A 32-bit window word (R45, R70). -/
abbrev Word := BitVec 32

/-- A word address of the host window, `haddr[8:2]`: 128 words (R45, R46). -/
abbrev WordAddr := BitVec 7

/-- A column of the state, or a key-schedule word: four bytes, `b0` the byte of row 0 (R131, R151). -/
structure Column where
  b0 : Byte
  b1 : Byte
  b2 : Byte
  b3 : Byte
  deriving DecidableEq, Repr

/-- The source's State: 4 rows × 4 columns of field elements, held by columns (R12, R20). -/
structure Mat where
  c0 : Column
  c1 : Column
  c2 : Column
  c3 : Column
  deriving DecidableEq, Repr

/-- A 16-byte sequence `blk[0..15]` (R12): a block, or the master key. -/
abbrev Block := Vector Byte 16

/-- The round-key file RK[0..10] (R26). -/
abbrev RoundKeys := Vector Mat 11

/-- The column whose bytes are all 0x00. -/
def Column.zero : Column := ⟨0, 0, 0, 0⟩

/-- The state whose bytes are all 0x00. -/
def Mat.zero : Mat := ⟨.zero, .zero, .zero, .zero⟩

/-- The block whose bytes are all 0x00. -/
def Block.zero : Block := Vector.replicate 16 0

/-- The names of the error codes 1 to 6 (R201).  Code 0, NONE, is the absence of an error and is no `ErrCode`; the codes
7 to 15 are reserved and never recorded. -/
inductive ErrCode where
  /-- A CMD write whose OPC is not in the opcode map. -/
  | illegalOpcode
  /-- A CMD write with a legal OPC and RSV ≠ 0, or RIDX ≠ 0 for an opcode that takes no RIDX. -/
  | reservedField
  /-- A CMD write of ARK with RIDX > 10, or of ROUND or IROUND with RIDX not in 1..9. -/
  | badRidx
  /-- A well-formed command that reads RK while KEYVALID = 0. -/
  | noKey
  /-- A write to STATE, KEY, GF_A, GF_B or CMD while BUSY = 1. -/
  | busyWrite
  /-- A write to GF_Y, to an RK word or to a reserved address. -/
  | badWrite
  deriving DecidableEq, Repr

end Sys2Proof
end

