-- ==== Sys2Proof/Config.lean ====
section
/-! DEFINITION. What the spec leaves open: free values with no body, so that nothing can be proved of what they are. -/

namespace Sys2Proof

/-- The spec's `draw()` (R39, R52; 93_implementation_defined.md I1): the value of the n-th read of a STATE word, GF_Y or
an RK word while BUSY = 1.  FREE VALUE, log entry 1. -/
opaque Config.draw : Nat → Word

/-- The value of host variable `$n` before any statement has written it (R86 gives none).  FREE VALUE, log entry 2. -/
opaque Config.hostVar : Nat → Word

end Sys2Proof
end

