-- ==== Sys2Proof/Syntax.lean ====
section
/-! DEFINITION. The sixteen commands of the opcode map (30_encoding.md R74), one constructor for each row of
spec/opcode_table.json. -/

namespace Sys2Proof

/-- A command.  `ridx` is a round-key index into RK[0..10] (R72); the bound of ARK, 0..10, is in its type, the tighter bound
of ROUND and IROUND, 1..9 (R73), is `Instr.WellFormed`. -/
inductive Instr where
  /-- R190: no operation. -/
  | nop
  /-- R105: field addition. -/
  | gfadd
  /-- R106: field multiplication. -/
  | gfmul
  /-- R107: multiplication by x. -/
  | xtime
  /-- R122: ShiftRows. -/
  | shrows
  /-- R123: inverse ShiftRows. -/
  | ishrows
  /-- R136: MixColumns. -/
  | mixcols
  /-- R137: inverse MixColumns. -/
  | imixcols
  /-- R154: AddRoundKey with RK[ridx]. -/
  | ark (ridx : Fin 11)
  /-- R155: the key schedule. -/
  | keyexp
  /-- R174: a forward middle round with RK[ridx]. -/
  | round (ridx : Fin 11)
  /-- R175: the forward final round. -/
  | fround
  /-- R176: an inverse middle round with RK[ridx]. -/
  | iround (ridx : Fin 11)
  /-- R177: the inverse final round. -/
  | ifround
  /-- R178: encrypt the block in ST. -/
  | enc
  /-- R180: decrypt the block in ST. -/
  | dec
  deriving DecidableEq, Repr

end Sys2Proof
end

