-- ==== Sys2Proof/WellFormed.lean ====
section
/-! DEFINITION. Which commands have a command word: the legal RIDX values of 30_encoding.md R73. -/

namespace Sys2Proof

/-- "rounds 1..9": the indices ROUND and IROUND take (R73). -/
abbrev MiddleRound (ridx : Fin 11) : Prop := 1 ≤ ridx.val ∧ ridx.val ≤ 9

/-- R73: ROUND and IROUND take 1..9.  ARK takes 0..10, which its type says; every other command has no index. -/
def Instr.wellFormed (i : Instr) : Bool :=
  match i with
  | .nop => true
  | .gfadd => true
  | .gfmul => true
  | .xtime => true
  | .shrows => true
  | .ishrows => true
  | .mixcols => true
  | .imixcols => true
  | .ark _ => true
  | .keyexp => true
  | .round ridx => decide (MiddleRound ridx)
  | .fround => true
  | .iround ridx => decide (MiddleRound ridx)
  | .ifround => true
  | .enc => true
  | .dec => true

/-- A command that has a command word. -/
@[simp] abbrev Instr.WellFormed (i : Instr) : Prop := i.wellFormed = true

end Sys2Proof
end

