-- ==== Sys2Proof/Machine/State.lean ====
section
/-! DEFINITION. Everything the spec gives the machine to hold (10_state.md R20 to R44), the host agent beside it (00_scope.md
R10, 30_encoding.md R86), the reasons a step can stop, and the state after reset (70_reset_and_hazards.md R230). -/

namespace Sys2Proof.Machine

/-- The operand registers as they stood when a command was accepted (R41).  All five are captured; a command uses those
the opcode map says it reads (R74).  Log entry 4. -/
structure Snapshot where
  st : Mat
  key : Block
  rk : RoundKeys
  gfA : Byte
  gfB : Byte
  deriving DecidableEq, Repr

/-- A pending command `(op, ridx, snapshot)` (R41). -/
structure Pending where
  /-- op and ridx. -/
  cmd : Instr
  snap : Snapshot
  deriving DecidableEq, Repr

/-- The statements of the host notation (R86).  A register is given by its word address and a label by the index of the
statement it marks. -/
inductive HostStmt where
  /-- `WR reg, imm32` -/
  | wr (reg : WordAddr) (imm : Word)
  /-- `WRV reg, $n` -/
  | wrv (reg : WordAddr) (n : Nat)
  /-- `RD reg, $n` -/
  | rd (reg : WordAddr) (n : Nat)
  /-- `MOV $n, imm32` -/
  | mov (n : Nat) (imm : Word)
  /-- `ADDI $n, imm` -/
  | addi (n : Nat) (imm : Word)
  /-- `ANDI $n, imm` -/
  | andi (n : Nat) (imm : Word)
  /-- `ORI $n, imm` -/
  | ori (n : Nat) (imm : Word)
  /-- `SHLI $n, k` -/
  | shli (n : Nat) (k : Nat)
  /-- `BNZ $n, label` -/
  | bnz (n : Nat) (label : Nat)
  /-- `BZ $n, label` -/
  | bz (n : Nat) (label : Nat)
  /-- `HALT` -/
  | halt
  deriving DecidableEq, Repr

/-- The host: its program, the index of the statement it performs next, and the variables it has written, by number, the
numbers strictly rising. -/
structure HostAgent where
  prog : List HostStmt
  pc : Nat
  vars : List (Nat × Word)
  deriving DecidableEq, Repr

/-- Who takes a step (R10), and what the rst_n pin does (R230, R232). -/
inductive Turn where
  /-- The host performs its next statement, rst_n = 1. -/
  | host
  /-- The sequencer takes its completion step, if a command is pending (R92). -/
  | sequencer
  /-- A rising edge of clk with rst_n = 0 and no host access (R230). -/
  | reset
  /-- The host performs its next statement in a cycle in which rst_n = 0 (R232). -/
  | hostInReset
  deriving DecidableEq, Repr

/-- The state of the two agents.  BUSY is not stored: it is `pend ≠ none` (R41, R44). -/
structure State where
  /-- ST, the state register (R20 to R23). -/
  st : Mat
  /-- KEY, the master key (R24, R25). -/
  key : Block
  /-- RK[0..10], the round-key file (R26 to R28). -/
  rk : RoundKeys
  /-- GF_A (R29). -/
  gfA : Byte
  /-- GF_B (R30). -/
  gfB : Byte
  /-- GF_Y (R31). -/
  gfY : Byte
  /-- STATUS.KEYVALID (R33, R34). -/
  keyValid : Bool
  /-- STATUS.ERR (R33). -/
  err : Bool
  /-- STATUS.ERRCODE (R33). -/
  errCode : BitVec 4
  /-- PEND (R41). -/
  pend : Option Pending
  /-- The model's own: how many free draws have been taken (R39).  Log entry 1. -/
  draws : Nat
  /-- The host agent (R10, R86). -/
  host : HostAgent
  /-- The model's own: whose steps come next, first one first (R10, R91).  Log entry 3. -/
  sched : List Turn
  deriving DecidableEq, Repr

/-- The reasons the machine stops.  There is none: a rejected access is recorded in STATUS and the block goes on (R207,
R211), every accepted command completes (R92, R208), and "the block never halts" (R252).  Safe: nothing is stopped that
the spec lets run.  Log entry 6. -/
inductive Fault where
  deriving DecidableEq, Repr

/-- The reasons an instruction has no meaning. -/
inductive Refusal where
  /-- The instruction's arm in `exec` has no meaning yet.  Raised by no arm: all sixteen commands have their meaning.  Safe. -/
  | notModelled (mnemonic : String)
  deriving DecidableEq, Repr

/-- The block right after reset (R230), beside a host that has been given no program. -/
def State.reset : State where
  st := .zero
  key := .zero
  rk := Vector.replicate 11 .zero
  gfA := 0x00
  gfB := 0x00
  gfY := 0x00
  keyValid := false
  err := false
  errCode := 0
  pend := none
  draws := 0
  host := ⟨[], 0, []⟩
  sched := []

end Sys2Proof.Machine
end

