-- ==== Sys2Proof/Machine/Flags.lean ====
section
/-! DEFINITION. STATUS (10_state.md R33, R36) and the error codes it records (60_exceptions.md R201).  The block has no
other flags (R37). -/

namespace Sys2Proof

/-- The number ERRCODE holds for an error (R201). -/
def ErrCode.code (e : ErrCode) : BitVec 4 :=
  match e with
  | .illegalOpcode => 1
  | .reservedField => 2
  | .badRidx => 3
  | .noKey => 4
  | .busyWrite => 5
  | .badWrite => 6

namespace Machine

/-- STATUS.BUSY, which equals `PEND ≠ none` (R41). -/
def State.busy (s : State) : Bool := s.pend.isSome

/-- The STATUS word: `{24'b0, ERRCODE[3:0], 1'b0, ERR, KEYVALID, BUSY}` (R36). -/
def statusWord (s : State) : Word :=
  0#24 ++ s.errCode ++ 0#1 ++ BitVec.ofBool s.err ++ BitVec.ofBool s.keyValid ++ BitVec.ofBool s.busy

/-- Bit 2 of a word written to STATUS: write 1 to clear (R35). -/
def clearBit (v : Word) : Bool := v.getLsbD 2

end Machine

end Sys2Proof
end

