-- ==== Sys2Proof/Machine/Operands.lean ====
section
/-! DEFINITION. The operand forms: the byte `S[r][c]` of a state, load and store between block and state (00_scope.md R13),
byte lanes of a window word (20_memory.md R48, R49), and what a command's snapshot holds (10_state.md R41). -/

namespace Sys2Proof

/-- The byte of row r. -/
def Column.get (a : Column) (r : Fin 4) : Byte :=
  match r with
  | 0 => a.b0
  | 1 => a.b1
  | 2 => a.b2
  | 3 => a.b3

/-- The column whose byte of row r is `f r`. -/
def Column.ofFn (f : Fin 4 → Byte) : Column := ⟨f 0, f 1, f 2, f 3⟩

/-- Column c of a state. -/
def Mat.col (S : Mat) (c : Fin 4) : Column :=
  match c with
  | 0 => S.c0
  | 1 => S.c1
  | 2 => S.c2
  | 3 => S.c3

/-- The state with column c replaced. -/
def Mat.setCol (S : Mat) (c : Fin 4) (a : Column) : Mat :=
  match c with
  | 0 => { S with c0 := a }
  | 1 => { S with c1 := a }
  | 2 => { S with c2 := a }
  | 3 => { S with c3 := a }

/-- The state whose column c is `f c`. -/
def Mat.ofCols (f : Fin 4 → Column) : Mat := ⟨f 0, f 1, f 2, f 3⟩

/-- `S[r][c]` (R12). -/
def Mat.get (S : Mat) (r c : Fin 4) : Byte := (S.col c).get r

/-- The state T with `T[r][c] = f r c`. -/
def Mat.ofFn (f : Fin 4 → Fin 4 → Byte) : Mat := .ofCols fun c => .ofFn fun r => f r c

/-- R13: `load(blk)` is the state S with `S[r][c] = blk[4*c + r]`. -/
def load (blk : Block) : Mat := .ofFn fun r c => blk[4 * c.val + r.val]

/-- R13: `store(S)` is the block with `blk[n] = S[n mod 4][n div 4]`. -/
def store (S : Mat) : Block :=
  #v[S.get 0 0, S.get 1 0, S.get 2 0, S.get 3 0, S.get 0 1, S.get 1 1, S.get 2 1, S.get 3 1,
     S.get 0 2, S.get 1 2, S.get 2 2, S.get 3 2, S.get 0 3, S.get 1 3, S.get 2 3, S.get 3 3]

/-- Byte lane k of a window word: bits [8k+7:8k] (R48). -/
def laneOf (v : Word) (k : Fin 4) : Byte := v.extractLsb' (8 * k.val) 8

/-- The four lanes of a word, lane k as byte k. -/
def Column.ofWord (v : Word) : Column := .ofFn (laneOf v)

/-- The word `{a[3], a[2], a[1], a[0]}` (R49). -/
def Column.toWord (a : Column) : Word := a.b3 ++ a.b2 ++ a.b1 ++ a.b0

/-- Word KEY<w> of the master key: lane k is `KEY.byte(4w + k)` (R24, R49). -/
def keyWordOf (key : Block) (w : Fin 4) : Word :=
  Column.toWord ⟨key[4 * w.val], key[4 * w.val + 1], key[4 * w.val + 2], key[4 * w.val + 3]⟩

/-- The master key with `KEY.byte(4w + k)` replaced by lane k of v, for k in 0..3 (R24, R52). -/
def setKeyWord (key : Block) (w : Fin 4) (v : Word) : Block :=
  (((key.set (4 * w.val) (laneOf v 0)).set (4 * w.val + 1) (laneOf v 1)).set (4 * w.val + 2) (laneOf v 2)).set
    (4 * w.val + 3) (laneOf v 3)

namespace Machine

/-- The operand registers as they stand in s (R41). -/
def Snapshot.of (s : State) : Snapshot := ⟨s.st, s.key, s.rk, s.gfA, s.gfB⟩

end Machine

end Sys2Proof
end

