-- ==== Sys2Proof/Machine/Ops.lean ====
section
/-! DEFINITION. The operations all commands and accesses share: recording and clearing an error (60_exceptions.md R206,
R210), accepting and completing a command (30_encoding.md R89 to R92), and reset (70_reset_and_hazards.md R230). -/

namespace Sys2Proof.Machine

/-- R206, `raise CmdError(code)`: the first error since the last clear is recorded, a later one is lost, and nothing else
changes. -/
def raise (e : ErrCode) (s : State) : State :=
  if s.err then s else { s with err := true, errCode := e.code }

/-- R35, R210: ERR <- 0 and ERRCODE <- 0. -/
def clearError (s : State) : State := { s with err := false, errCode := 0 }

/-- R90: BUSY <- 1 and PEND <- (opc, ridx, snapshot). -/
def accept (i : Instr) (s : State) : State := { s with pend := some ⟨i, .of s⟩ }

/-- R92: BUSY <- 0 and PEND <- none. -/
def retire (s : State) : State := { s with pend := none }

/-- R89: the opcodes that read RK, and so need KEYVALID. -/
def needsKey (i : Instr) : Bool :=
  match i with
  | .nop => false
  | .gfadd => false
  | .gfmul => false
  | .xtime => false
  | .shrows => false
  | .ishrows => false
  | .mixcols => false
  | .imixcols => false
  | .ark _ => true
  | .keyexp => false
  | .round _ => true
  | .fround => true
  | .iround _ => true
  | .ifround => true
  | .enc => true
  | .dec => true

/-- The checks a decoded command meets when it is issued (R200, 4c and 4d): its RIDX, then KEYVALID.  A command that
`decode` answers passes the first. -/
def issueError (i : Instr) (s : State) : Option ErrCode :=
  if !i.wellFormed then some .badRidx
  else if needsKey i && !s.keyValid then some .noKey
  else none

/-- A command, in whichever of its two steps it is.  Nothing pending: it is issued (R89), that is rejected or accepted.
It is itself pending: it completes (R92), `effect` writing its results from the snapshot.  Another command is pending:
BUSY_WRITE (R204).  (A CMD write while BUSY = 1, whatever its word, is rejected by `memWrite` before it is decoded, as R52
and R89 say, so no such write reaches the second case.)  Log entry 5. -/
def command (i : Instr) (effect : Snapshot → State → State) (s : State) : Host.Outcome State Fault Refusal :=
  match s.pend with
  | none =>
    match issueError i s with
    | some e => .next (raise e s)
    | none => .next (accept i s)
  | some p => if p.cmd = i then .next (retire (effect p.snap s)) else .next (raise .busyWrite s)

/-- R230, R231: every register of the block takes its reset value and a pending command is aborted.  The host, the draws
taken and the order of the coming steps are no part of the block. -/
def resetBlock (s : State) : State :=
  { State.reset with draws := s.draws, host := s.host, sched := s.sched }

end Sys2Proof.Machine
end

