-- ==== Sys2Proof/Machine/Nop.lean ====
section
/-! DEFINITION. The command NOP (45_nop.md). -/

namespace Sys2Proof.Machine

/-- R190: nothing is written but BUSY, at accept and at completion. -/
def execNop (s : State) : Host.Outcome State Fault Refusal :=
  command .nop (fun _ t => t) s

end Sys2Proof.Machine
end

