-- ==== Sys2Proof/Machine/Field.lean ====
section
/-! DEFINITION. The GF(2^8) adder and multiplier, modulo 0x11B, and the commands GFADD, GFMUL and XTIME (40_field.md). -/

namespace Sys2Proof

/-- R100: the sum of two field elements. -/
def gfadd (a b : Byte) : Byte := a ^^^ b

/-- R102: the product with x.  The top bit is tested before the shift and 0x1B is XORed after it (90_conflicts.md C4). -/
def xtime (a : Byte) : Byte := (a <<< 1) ^^^ (if a.msb then 0x1B else 0x00)

/-- The loop of R103, `n` iterations to go: p accumulates, x doubles, y shifts right. -/
def gfmulLoop (n : Nat) (p x y : Byte) : Byte :=
  match n with
  | 0 => p
  | n + 1 => gfmulLoop n (if y.getLsbD 0 then p ^^^ x else p) (xtime x) (y >>> 1)

/-- R103: the product of two field elements, double-and-reduce, 8 iterations. -/
def gfmul (a b : Byte) : Byte := gfmulLoop 8 0x00 a b

/-- R101, the first loop: the carry-less product of a and b, bit by bit of b. -/
def clmul (a b : Byte) : BitVec 15 :=
  [0, 1, 2, 3, 4, 5, 6, 7].foldl (fun p i => if b.getLsbD i then p ^^^ (a.setWidth 15 <<< i) else p) 0

/-- R101: the normative definition of the product, the carry-less product reduced modulo 0x11B from the top bit down. -/
def gfmulRef (a b : Byte) : Byte :=
  ([14, 13, 12, 11, 10, 9, 8].foldl
    (fun p d => if p.getLsbD d then p ^^^ ((0x11B : BitVec 15) <<< (d - 8)) else p) (clmul a b)).setWidth 8

namespace Machine

/-- R105: `GF_Y <- gfadd(GF_A, GF_B)`. -/
def execGfadd (s : State) : Host.Outcome State Fault Refusal :=
  command .gfadd (fun x t => { t with gfY := gfadd x.gfA x.gfB }) s

/-- R106: `GF_Y <- gfmul(GF_A, GF_B)`. -/
def execGfmul (s : State) : Host.Outcome State Fault Refusal :=
  command .gfmul (fun x t => { t with gfY := gfmul x.gfA x.gfB }) s

/-- R107: `GF_Y <- xtime(GF_A)`; GF_B is not read. -/
def execXtime (s : State) : Host.Outcome State Fault Refusal :=
  command .xtime (fun x t => { t with gfY := xtime x.gfA }) s

end Machine

end Sys2Proof
end

