-- ==== Sys2Proof/Machine/Columns.lean ====
section
/-! DEFINITION. The column mix, forward and inverse, and the commands MIXCOLS and IMIXCOLS (42_mixcolumns.md). -/

namespace Sys2Proof

/-- R130: row i of the MDS matrix M. -/
def mdsRow (i : Fin 4) : Column :=
  match i with
  | 0 => ⟨2, 3, 1, 1⟩
  | 1 => ⟨1, 2, 3, 1⟩
  | 2 => ⟨1, 1, 2, 3⟩
  | 3 => ⟨3, 1, 1, 2⟩

/-- A row of a matrix times a column, over GF(2^8). -/
def rowTimes (m a : Column) : Byte :=
  gfmul m.b0 a.b0 ^^^ gfmul m.b1 a.b1 ^^^ gfmul m.b2 a.b2 ^^^ gfmul m.b3 a.b3

/-- R131, mixcol: M times the column. -/
def mixCol (a : Column) : Column := .ofFn fun i => rowTimes (mdsRow i) a

/-- R132, invmixcol: u and v are 4 times the sums of the even and of the odd bytes (90_conflicts.md C5). -/
def invMixCol (a : Column) : Column :=
  let u := xtime (xtime (a.b0 ^^^ a.b2))
  let v := xtime (xtime (a.b1 ^^^ a.b3))
  mixCol ⟨a.b0 ^^^ u, a.b1 ^^^ v, a.b2 ^^^ u, a.b3 ^^^ v⟩

/-- R134, MC: mixcol on each column on its own. -/
def mixColumns (S : Mat) : Mat := .ofCols fun c => mixCol (S.col c)

/-- R135, IMC: invmixcol on each column on its own. -/
def invMixColumns (S : Mat) : Mat := .ofCols fun c => invMixCol (S.col c)

namespace Machine

/-- R136: `ST <- MC(ST)`. -/
def execMixcols (s : State) : Host.Outcome State Fault Refusal :=
  command .mixcols (fun x t => { t with st := mixColumns x.st }) s

/-- R137: `ST <- IMC(ST)`. -/
def execImixcols (s : State) : Host.Outcome State Fault Refusal :=
  command .imixcols (fun x t => { t with st := invMixColumns x.st }) s

end Machine

end Sys2Proof
end

