-- ==== Sys2Proof/Machine/Keys.lean ====
section
/-! DEFINITION. AddRoundKey, the key schedule without SubWord, and the commands ARK and KEYEXP (43_key.md). -/

namespace Sys2Proof

/-- R150, ARKf: `T[r][c] = gfadd(S[r][c], K[r][c])`. -/
def addRoundKey (S K : Mat) : Mat := .ofFn fun r c => gfadd (S.get r c) (K.get r c)

/-- RotWord: one byte toward byte 0 (R152). -/
def rotWord (t : Column) : Column := ⟨t.b1, t.b2, t.b3, t.b0⟩

/-- R156: Rcon(1) = 0x01 and Rcon(j+1) = xtime(Rcon(j)).  The schedule uses Rcon(1) to Rcon(10); index 0 is never used. -/
def rcon (j : Nat) : Byte :=
  match j with
  | 0 => 0x01
  | 1 => 0x01
  | n + 2 => xtime (rcon (n + 1))

/-- The bytewise sum of two key-schedule words. -/
def Column.add (a b : Column) : Column :=
  ⟨gfadd a.b0 b.b0, gfadd a.b1 b.b1, gfadd a.b2 b.b2, gfadd a.b3 b.b3⟩

/-- The term t of R152 for word i, from the word before it: every fourth word it is rotated and its byte 0 takes the round
constant; there is no SubWord (R158). -/
def scheduleTerm (i : Nat) (prev : Column) : Column :=
  if i % 4 = 0 then (rotWord prev).add ⟨rcon (i / 4), 0, 0, 0⟩ else prev

/-- R151: the words w[0..3], byte k of w[i] being key byte 4i+k. -/
def firstWords (key : Block) : Mat :=
  ⟨⟨key[0], key[1], key[2], key[3]⟩, ⟨key[4], key[5], key[6], key[7]⟩,
   ⟨key[8], key[9], key[10], key[11]⟩, ⟨key[12], key[13], key[14], key[15]⟩⟩

/-- The four consecutive words w[n..n+3] of the key schedule, as columns: each step of R152 makes w[n+4] from w[n] and
w[n+3], and drops w[n]. -/
def scheduleWindow (key : Block) (n : Nat) : Mat :=
  match n with
  | 0 => firstWords key
  | n + 1 =>
    let W := scheduleWindow key n
    ⟨W.c1, W.c2, W.c3, W.c0.add (scheduleTerm (n + 4) W.c3)⟩

/-- Word w[i] of the key schedule. -/
def scheduleWord (key : Block) (i : Nat) : Column := (scheduleWindow key i).c0

/-- R153: round key j, whose columns 0..3 are the words w[4j..4j+3]. -/
def roundKey (key : Block) (j : Nat) : Mat := scheduleWindow key (4 * j)

/-- KS(KEY), the 11 round keys (R153). -/
def keySchedule (key : Block) : RoundKeys :=
  #v[roundKey key 0, roundKey key 1, roundKey key 2, roundKey key 3, roundKey key 4, roundKey key 5, roundKey key 6,
     roundKey key 7, roundKey key 8, roundKey key 9, roundKey key 10]

namespace Machine

/-- R154: `ST <- ARKf(ST, RK[i])`. -/
def execArk (ridx : Fin 11) (s : State) : Host.Outcome State Fault Refusal :=
  command (.ark ridx) (fun x t => { t with st := addRoundKey x.st x.rk[ridx] }) s

/-- R155: `(RK[0], …, RK[10]) <- KS(KEY)` and `KEYVALID <- 1`. -/
def execKeyexp (s : State) : Host.Outcome State Fault Refusal :=
  command .keyexp (fun x t => { t with rk := keySchedule x.key, keyValid := true }) s

end Machine

end Sys2Proof
end

