-- ==== Sys2Proof/Machine/Rows.lean ====
section
/-! DEFINITION. The row rotations and the commands SHROWS and ISHROWS (41_shiftrows.md). -/

namespace Sys2Proof

/-- R120, SR: `T[r][c] = S[r][(c + r) mod 4]`; addition of `Fin 4` is modulo 4. -/
def shiftRows (S : Mat) : Mat := .ofFn fun r c => S.get r (c + r)

/-- R121, ISR: `T[r][c] = S[r][(c - r) mod 4]`. -/
def invShiftRows (S : Mat) : Mat := .ofFn fun r c => S.get r (c - r)

namespace Machine

/-- R122: `ST <- SR(ST)`. -/
def execShrows (s : State) : Host.Outcome State Fault Refusal :=
  command .shrows (fun x t => { t with st := shiftRows x.st }) s

/-- R123: `ST <- ISR(ST)`. -/
def execIshrows (s : State) : Host.Outcome State Fault Refusal :=
  command .ishrows (fun x t => { t with st := invShiftRows x.st }) s

end Machine

end Sys2Proof
end

