-- ==== Sys2Proof/Machine/Rounds.lean ====
section
/-! DEFINITION. The rounds without SubBytes, encryption and decryption, and the commands ROUND, FROUND, IROUND, IFROUND, ENC
and DEC (44_rounds.md). -/

namespace Sys2Proof

/-- R170, FR: the forward middle round. -/
def forwardRound (S K : Mat) : Mat := addRoundKey (mixColumns (shiftRows S)) K

/-- R171, FFR: the forward final round, without MixColumns. -/
def forwardFinal (S K : Mat) : Mat := addRoundKey (shiftRows S) K

/-- R172, IR: the inverse middle round; the key is added before the inverse mix. -/
def inverseRound (S K : Mat) : Mat := invMixColumns (addRoundKey (invShiftRows S) K)

/-- R173, IFR: the inverse final round. -/
def inverseFinal (S K : Mat) : Mat := addRoundKey (invShiftRows S) K

/-- The rounds 1..9, in the order of encryption (R179). -/
def middleRounds : List (Fin 11) := [1, 2, 3, 4, 5, 6, 7, 8, 9]

/-- R179, E. -/
def encrypt (rk : RoundKeys) (S : Mat) : Mat :=
  forwardFinal (middleRounds.foldl (fun T i => forwardRound T rk[i]) (addRoundKey S rk[0])) rk[10]

/-- R181, D: the middle rounds run from 9 down to 1. -/
def decrypt (rk : RoundKeys) (S : Mat) : Mat :=
  inverseFinal (middleRounds.reverse.foldl (fun T i => inverseRound T rk[i]) (addRoundKey S rk[10])) rk[0]

namespace Machine

/-- R174: `ST <- FR(ST, RK[i])`. -/
def execRound (ridx : Fin 11) (s : State) : Host.Outcome State Fault Refusal :=
  command (.round ridx) (fun x t => { t with st := forwardRound x.st x.rk[ridx] }) s

/-- R175: `ST <- FFR(ST, RK[10])`. -/
def execFround (s : State) : Host.Outcome State Fault Refusal :=
  command .fround (fun x t => { t with st := forwardFinal x.st x.rk[10] }) s

/-- R176: `ST <- IR(ST, RK[i])`. -/
def execIround (ridx : Fin 11) (s : State) : Host.Outcome State Fault Refusal :=
  command (.iround ridx) (fun x t => { t with st := inverseRound x.st x.rk[ridx] }) s

/-- R177: `ST <- IFR(ST, RK[0])`. -/
def execIfround (s : State) : Host.Outcome State Fault Refusal :=
  command .ifround (fun x t => { t with st := inverseFinal x.st x.rk[0] }) s

/-- R178: `ST <- E(RK, ST)`. -/
def execEnc (s : State) : Host.Outcome State Fault Refusal :=
  command .enc (fun x t => { t with st := encrypt x.rk x.st }) s

/-- R180: `ST <- D(RK, ST)`. -/
def execDec (s : State) : Host.Outcome State Fault Refusal :=
  command .dec (fun x t => { t with st := decrypt x.rk x.st }) s

end Machine

end Sys2Proof
end

