-- ==== Sys2Proof/Machine/Dispatch.lean ====
section
/-! DEFINITION. One arm for each command, each a direct call of its meaning. -/

namespace Sys2Proof.Machine

def exec (i : Instr) (s : State) : Host.Outcome State Fault Refusal :=
  match i with
  | .nop => Sys2Proof.Machine.execNop s
  | .gfadd => Sys2Proof.Machine.execGfadd s
  | .gfmul => Sys2Proof.Machine.execGfmul s
  | .xtime => Sys2Proof.Machine.execXtime s
  | .shrows => Sys2Proof.Machine.execShrows s
  | .ishrows => Sys2Proof.Machine.execIshrows s
  | .mixcols => Sys2Proof.Machine.execMixcols s
  | .imixcols => Sys2Proof.Machine.execImixcols s
  | .ark ridx => Sys2Proof.Machine.execArk ridx s
  | .keyexp => Sys2Proof.Machine.execKeyexp s
  | .round ridx => Sys2Proof.Machine.execRound ridx s
  | .fround => Sys2Proof.Machine.execFround s
  | .iround ridx => Sys2Proof.Machine.execIround ridx s
  | .ifround => Sys2Proof.Machine.execIfround s
  | .enc => Sys2Proof.Machine.execEnc s
  | .dec => Sys2Proof.Machine.execDec s

end Sys2Proof.Machine
end

