-- ==== Sys2Proof/Decode.lean ====
section
/-! DEFINITION. The command word's fields, the decoder, total on all 2^32 words (30_encoding.md R71, R82), and the encoder
(R85). -/

namespace Sys2Proof

/-- OPC, bits [7:0] of the command word (R71). -/
def opcField (v : Word) : BitVec 8 := v.extractLsb' 0 8

/-- RIDX, bits [11:8] of the command word (R71). -/
def ridxField (v : Word) : BitVec 4 := v.extractLsb' 8 4

/-- RSV, bits [31:12] of the command word (R71). -/
def rsvField (v : Word) : BitVec 20 := v.extractLsb' 12 20

/-- What an opcode does with RIDX (R73). -/
inductive RidxUse where
  /-- The opcode takes no RIDX: it must be 0. -/
  | unused (i : Instr)
  /-- ARK: 0..10. -/
  | anyKey (i : Fin 11 → Instr)
  /-- ROUND and IROUND: 1..9. -/
  | middle (i : Fin 11 → Instr)

/-- The opcode map (R74); `none` for the illegal opcodes (R76). -/
def opcodeMap (opc : BitVec 8) : Option RidxUse :=
  match opc with
  | 0x00#8 => some (.unused .nop)
  | 0x01#8 => some (.unused .gfadd)
  | 0x02#8 => some (.unused .gfmul)
  | 0x03#8 => some (.unused .xtime)
  | 0x10#8 => some (.unused .shrows)
  | 0x11#8 => some (.unused .ishrows)
  | 0x12#8 => some (.unused .mixcols)
  | 0x13#8 => some (.unused .imixcols)
  | 0x14#8 => some (.anyKey .ark)
  | 0x20#8 => some (.unused .keyexp)
  | 0x30#8 => some (.middle .round)
  | 0x31#8 => some (.unused .fround)
  | 0x32#8 => some (.middle .iround)
  | 0x33#8 => some (.unused .ifround)
  | 0x40#8 => some (.unused .enc)
  | 0x41#8 => some (.unused .dec)
  | _ => none

/-- The RIDX check of R82: the command, or BAD_RIDX (R79) or RESERVED_FIELD (R78). -/
def checkRidx (use : RidxUse) (ridx : BitVec 4) : Except ErrCode Instr :=
  match use with
  | .unused i => if ridx = 0 then .ok i else .error .reservedField
  | .anyKey i => if h : ridx.toNat < 11 then .ok (i ⟨ridx.toNat, h⟩) else .error .badRidx
  | .middle i =>
    if h : ridx.toNat < 11 then
      if MiddleRound ⟨ridx.toNat, h⟩ then .ok (i ⟨ridx.toNat, h⟩) else .error .badRidx
    else .error .badRidx

/-- R82: every word decodes to exactly one legal command or exactly one error code.  The opcode is checked first, then
RSV, then RIDX. -/
def decode (v : Word) : Except ErrCode Instr :=
  match opcodeMap (opcField v) with
  | none => .error .illegalOpcode
  | some use => if rsvField v = 0 then checkRidx use (ridxField v) else .error .reservedField

/-- The decoder on the word as spec/opcode_table.json numbers its bits: a command is one 32-bit word (R70), so the bits
above `nbits` are 0 and a number that does not fit 32 bits is no command word. -/
def decodeTableWord (nbits w : Nat) : Option Instr :=
  if w % 2 ^ nbits < 2 ^ 32 then
    match decode (BitVec.ofNat 32 (w % 2 ^ nbits)) with
    | .ok i => some i
    | .error _ => none
  else none

/-- The opcode of a command (R74). -/
def Instr.opc (i : Instr) : BitVec 8 :=
  match i with
  | .nop => 0x00
  | .gfadd => 0x01
  | .gfmul => 0x02
  | .xtime => 0x03
  | .shrows => 0x10
  | .ishrows => 0x11
  | .mixcols => 0x12
  | .imixcols => 0x13
  | .ark _ => 0x14
  | .keyexp => 0x20
  | .round _ => 0x30
  | .fround => 0x31
  | .iround _ => 0x32
  | .ifround => 0x33
  | .enc => 0x40
  | .dec => 0x41

/-- The RIDX field of a command: its index, or 0 (R73). -/
def Instr.ridx (i : Instr) : BitVec 4 :=
  match i with
  | .ark k => BitVec.ofNat 4 k.val
  | .round k => BitVec.ofNat 4 k.val
  | .iround k => BitVec.ofNat 4 k.val
  | .nop => 0
  | .gfadd => 0
  | .gfmul => 0
  | .xtime => 0
  | .shrows => 0
  | .ishrows => 0
  | .mixcols => 0
  | .imixcols => 0
  | .keyexp => 0
  | .fround => 0
  | .ifround => 0
  | .enc => 0
  | .dec => 0

/-- R85: the assembled word, `zext_32({ridx[3:0], opc[7:0]})`. -/
def encode (i : Instr) : Word := (i.ridx ++ i.opc).setWidth 32

end Sys2Proof
end

