-- ==== Sys2Proof/Machine/Window.lean ====
section
/-! DEFINITION. The host register window: its address map, host reads and host writes (20_memory.md R45 to R56). -/

namespace Sys2Proof.Machine

/-- What a word address of the window names (R51). -/
inductive WindowReg where
  | state (c : Fin 4)
  | key (w : Fin 4)
  | gfA
  | gfB
  | gfY
  | cmd
  | status
  | rk (j : Fin 11) (c : Fin 4)
  | reserved
  deriving DecidableEq, Repr

/-- R51, the address map, by word address: the byte address of the table divided by 4. -/
def regAt (a : WordAddr) : WindowReg :=
  let n := a.toNat
  if h : n < 4 then .state ⟨n, h⟩
  else if h : n < 8 then .key ⟨n - 4, by omega⟩
  else if n = 8 then .gfA
  else if n = 9 then .gfB
  else if n = 10 then .gfY
  else if n = 12 then .cmd
  else if n = 13 then .status
  else if h : 64 ≤ n ∧ n < 108 then .rk ⟨(n - 64) / 4, by omega⟩ ⟨(n - 64) % 4, by omega⟩
  else .reserved

/-- The byte address R51 gives a named register; the reserved addresses have no one address. -/
def WindowReg.byteAddr (r : WindowReg) : Option Nat :=
  match r with
  | .state c => some (0x000 + 4 * c.val)
  | .key w => some (0x010 + 4 * w.val)
  | .gfA => some 0x020
  | .gfB => some 0x024
  | .gfY => some 0x028
  | .cmd => some 0x030
  | .status => some 0x034
  | .rk j c => some (0x100 + 16 * j.val + 4 * c.val)
  | .reserved => none

/-- The word address of a byte address: haddr[8:2] (R46). -/
def wordAddr (byteAddr : Nat) : WordAddr := BitVec.ofNat 7 (byteAddr / 4)

/-- The value a result register's word reads as: `v`, or a free draw while BUSY = 1 (R39, R52). -/
def readResult (v : Word) (s : State) : Word × State :=
  if s.busy then (Config.draw s.draws, { s with draws := s.draws + 1 }) else (v, s)

/-- R52, `MemRead`.  A read is never rejected (R200) and changes nothing of the block (R55). -/
def memRead (a : WordAddr) (s : State) : Word × State :=
  match regAt a with
  | .state c => readResult (s.st.col c).toWord s
  | .key w => (keyWordOf s.key w, s)
  | .gfA => (s.gfA.setWidth 32, s)
  | .gfB => (s.gfB.setWidth 32, s)
  | .gfY => readResult (s.gfY.setWidth 32) s
  | .cmd => (0, s)
  | .status => (statusWord s, s)
  | .rk j c => readResult (s.rk[j].col c).toWord s
  | .reserved => (0, s)

/-- What an agent's move asks for: nothing more than the state it leaves, or a command to be run in that state. -/
inductive Action where
  | settled (t : State)
  | run (i : Instr) (t : State)
  deriving DecidableEq, Repr

/-- A write to a data register or to CMD: BUSY_WRITE while BUSY = 1 (R204), else what `act` does. -/
def unlessBusy (s : State) (act : Action) : Action :=
  if s.busy then .settled (raise .busyWrite s) else act

/-- R89, `issue(v)`: a word that does not decode is rejected with its error; a command is run, and makes its own checks. -/
def issue (v : Word) (s : State) : Action :=
  match decode v with
  | .error e => .settled (raise e s)
  | .ok i => .run i s

/-- R52 and R200, `MemWrite`, the checks in their order. -/
def memWrite (a : WordAddr) (v : Word) (s : State) : Action :=
  match regAt a with
  | .gfY => .settled (raise .badWrite s)
  | .rk _ _ => .settled (raise .badWrite s)
  | .reserved => .settled (raise .badWrite s)
  | .status => .settled (if clearBit v then clearError s else s)
  | .state c => unlessBusy s (.settled { s with st := s.st.setCol c (.ofWord v) })
  | .key w => unlessBusy s (.settled { s with key := setKeyWord s.key w v, keyValid := false })
  | .gfA => unlessBusy s (.settled { s with gfA := v.setWidth 8 })
  | .gfB => unlessBusy s (.settled { s with gfB := v.setWidth 8 })
  | .cmd => unlessBusy s (issue v s)

/-- The byte at window byte address a: lane (a mod 4) of word (a div 4) (R48), as a read of that word gives it. -/
def windowByte (a : BitVec 9) (s : State) : Byte :=
  laneOf (memRead (a.extractLsb' 2 7) s).1 ⟨a.toNat % 4, by omega⟩

end Sys2Proof.Machine
end

