-- ==== Sys2Proof/Machine/Fetch.lean ====
section
/-! DEFINITION. The two agents' moves (00_scope.md R10): the host performs a statement of its program (30_encoding.md R86,
R87), the sequencer takes up the pending command (R92), or the platform resets the block (70_reset_and_hazards.md R230 to
R232). -/

namespace Sys2Proof.Machine

/-- The written value of host variable n in the list of written ones. -/
def findVar (vars : List (Nat × Word)) (n : Nat) : Option Word :=
  match vars with
  | [] => none
  | (m, v) :: rest => if m = n then some v else findVar rest n

/-- The list of written variables after `$n <- v`, the numbers kept strictly rising. -/
def insertVar (vars : List (Nat × Word)) (n : Nat) (v : Word) : List (Nat × Word) :=
  match vars with
  | [] => [(n, v)]
  | (m, w) :: rest =>
    if n < m then (n, v) :: (m, w) :: rest
    else if n = m then (n, v) :: rest
    else (m, w) :: insertVar rest n v

/-- The form `insertVar` keeps: the variables' numbers are strictly rising. -/
def varsWf (vars : List (Nat × Word)) : Bool :=
  match vars with
  | [] => true
  | [_] => true
  | (m, _) :: (n, w) :: rest => decide (m < n) && varsWf ((n, w) :: rest)

/-- `$n`: what was last written to it, or a free value (R86).  Log entry 2. -/
def hostVar (s : State) (n : Nat) : Word := (findVar s.host.vars n).getD (Config.hostVar n)

/-- `$n <- v`. -/
def setHostVar (n : Nat) (v : Word) (s : State) : State :=
  { s with host := { s.host with vars := insertVar s.host.vars n v } }

/-- The host goes on at statement k. -/
def hostGoto (k : Nat) (s : State) : State := { s with host := { s.host with pc := k } }

/-- The host goes on at the next statement. -/
def hostNext (s : State) : State := hostGoto (s.host.pc + 1) s

/-- A host read at the port; while rst_n = 0 it returns 0 (R232). -/
def portRead (live : Bool) (a : WordAddr) (s : State) : Word × State :=
  if live then memRead a s else (0, s)

/-- A host write at the port; while rst_n = 0 it is dropped without recording an error (R232). -/
def portWrite (live : Bool) (a : WordAddr) (v : Word) (s : State) : Action :=
  if live then memWrite a v s else .settled s

/-- One statement of the host notation (R86). -/
def hostStmt (live : Bool) (c : HostStmt) (s : State) : Action :=
  match c with
  | .wr reg imm => portWrite live reg imm (hostNext s)
  | .wrv reg n => portWrite live reg (hostVar s n) (hostNext s)
  | .rd reg n => .settled (setHostVar n (portRead live reg s).1 (hostNext (portRead live reg s).2))
  | .mov n imm => .settled (setHostVar n imm (hostNext s))
  | .addi n imm => .settled (setHostVar n (hostVar s n + imm) (hostNext s))
  | .andi n imm => .settled (setHostVar n (hostVar s n &&& imm) (hostNext s))
  | .ori n imm => .settled (setHostVar n (hostVar s n ||| imm) (hostNext s))
  | .shli n k => .settled (setHostVar n (hostVar s n <<< k) (hostNext s))
  | .bnz n label => .settled (if hostVar s n ≠ 0 then hostGoto label s else hostNext s)
  | .bz n label => .settled (if hostVar s n = 0 then hostGoto label s else hostNext s)
  | .halt => .settled s

/-- The host's move: its next statement.  A host whose program has ended, or that has none, makes no access, and the block
waits (R233).  Log entry 7. -/
def hostMove (live : Bool) (s : State) : Action :=
  match s.host.prog[s.host.pc]? with
  | none => .settled s
  | some c => hostStmt live c s

/-- The sequencer's move: the pending command is to be completed (R92); with none pending it is not enabled and nothing
happens. -/
def sequencerMove (s : State) : Action :=
  match s.pend with
  | none => .settled s
  | some p => .run p.cmd s

/-- Whose step comes next: the first turn of the schedule; past its end, the sequencer's while a command is pending, else
the host's.  So a pending command completes eventually (R91).  Log entry 3. -/
def State.turn (s : State) : Turn :=
  match s.sched with
  | t :: _ => t
  | [] => if s.busy then .sequencer else .host

/-- The turn is used up. -/
def dropTurn (s : State) : State := { s with sched := s.sched.tail }

/-- What the agent whose turn it is asks for. -/
def fetch (s : State) : Action :=
  match s.turn with
  | .host => hostMove true (dropTurn s)
  | .sequencer => sequencerMove (dropTurn s)
  | .reset => .settled (resetBlock (dropTurn s))
  | .hostInReset => hostMove false (resetBlock (dropTurn s))

/-- The word address R51 gives a named register, as the host notation's `addr(reg)` (R86). -/
def addrOf (r : WindowReg) : WordAddr := wordAddr (r.byteAddr.getD 0x02C)

/-- `CMD mnem [i]` (R87). -/
def pseudoCmd (i : Instr) : List HostStmt := [.wr (addrOf .cmd) (encode i)]

/-- `WAIT` (R87), standing at statement `here` and using variable t. -/
def pseudoWait (here t : Nat) : List HostStmt :=
  [.rd (addrOf .status) t, .andi t 1, .bnz t here]

/-- `CLRERR` (R87). -/
def pseudoClrErr : List HostStmt := [.wr (addrOf .status) 0x00000004]

/-- `LDST b0..b15` (R87). -/
def pseudoLdst (blk : Block) : List HostStmt :=
  [.wr (addrOf (.state 0)) (keyWordOf blk 0), .wr (addrOf (.state 1)) (keyWordOf blk 1),
   .wr (addrOf (.state 2)) (keyWordOf blk 2), .wr (addrOf (.state 3)) (keyWordOf blk 3)]

/-- `LDKEY k0..k15` (R87). -/
def pseudoLdkey (blk : Block) : List HostStmt :=
  [.wr (addrOf (.key 0)) (keyWordOf blk 0), .wr (addrOf (.key 1)) (keyWordOf blk 1),
   .wr (addrOf (.key 2)) (keyWordOf blk 2), .wr (addrOf (.key 3)) (keyWordOf blk 3)]

/-- `RDST $a,$b,$c,$d` (R87). -/
def pseudoRdst (a b c d : Nat) : List HostStmt :=
  [.rd (addrOf (.state 0)) a, .rd (addrOf (.state 1)) b, .rd (addrOf (.state 2)) c, .rd (addrOf (.state 3)) d]

end Sys2Proof.Machine
end

