-- ==== Sys2Proof/Machine/Step.lean ====
section
/-! DEFINITION. One step: the agent whose turn it is moves, and a command it asks for is run (00_scope.md R17). -/

namespace Sys2Proof.Machine

/-- One host transaction, one host statement, one command completion or one reset edge. -/
def step (s : State) : Host.Outcome State Fault Refusal :=
  match fetch s with
  | .settled t => .next t
  | .run i t => exec i t

/-- The machine as s, but about to run the command word w: no command pending, the host's turn, and the host's program one
write of w to CMD.  Log entry 8. -/
def State.withFetchWord (s : State) (nbits w : Nat) : State :=
  { s with
    pend := none
    host := { s.host with prog := [.wr (addrOf .cmd) (BitVec.ofNat 32 (w % 2 ^ nbits))], pc := 0 }
    sched := .host :: s.sched }

end Sys2Proof.Machine
end

