-- ==== Sys2Proof/Safety.lean ====
section
/-! DEFINITION. What holds of the block in every run: the invariant of the state, and the runs the spec speaks of, a command
issued and waited for (30_encoding.md R87, R92; 44_rounds.md R186). -/

namespace Sys2Proof.Machine

/-- ERRCODE is one of the codes 1..6 while an error is recorded, and 0 while none is (R201, R206; 93 I13). -/
abbrev State.ErrorOk (s : State) : Prop :=
  if s.err then 1 ≤ s.errCode.toNat ∧ s.errCode.toNat ≤ 6 else s.errCode = 0

/-- KEYVALID = 1 only while RK is the schedule of KEY (R27, R34). -/
abbrev State.KeyOk (s : State) : Prop := s.keyValid = true → s.rk = keySchedule s.key

/-- A pending command was legal and had its key, and no register it reads has changed since its accept (R27, R42). -/
abbrev State.PendOk (s : State) : Prop :=
  ∀ p ∈ s.pend, p.cmd.WellFormed ∧ p.snap = Snapshot.of s ∧ (needsKey p.cmd = true → s.keyValid = true)

/-- The host's written variables are listed with their numbers strictly rising (the model's own form). -/
abbrev State.VarsOk (s : State) : Prop := varsWf s.host.vars = true

/-- The invariant of the machine. -/
abbrev State.Inv (s : State) : Prop := s.ErrorOk ∧ s.KeyOk ∧ s.PendOk ∧ s.VarsOk

/-- No error has been recorded since the last clear (R242: the check a careful program makes). -/
abbrev State.NoError (s : State) : Prop := s.err = false

/-- No command is pending: every register may be read (R252). -/
abbrev State.Idle (s : State) : Prop := s.pend = none

/-- The move after a next state; a stop stays as it is. -/
def andThen (o : Host.Outcome State Fault Refusal) (f : State → Host.Outcome State Fault Refusal) :
    Host.Outcome State Fault Refusal :=
  match o with
  | .next t => f t
  | .fault r => .fault r
  | .refused r => .refused r

/-- A command issued, and then its completion with no other access between (R186). -/
def issueAndWait (i : Instr) (s : State) : Host.Outcome State Fault Refusal := andThen (exec i s) (exec i)

/-- Commands issued in order, a wait after each (R186). -/
def issueAll (is : List Instr) (s : State) : Host.Outcome State Fault Refusal :=
  is.foldl (fun o i => andThen o (issueAndWait i)) (.next s)

end Sys2Proof.Machine
end

