-- ==== Sys2Proof/Certificates/Slice0/Obligations.lean ====
section
/-! DEFINITION. The statements for the provers.  Each docstring names the rule of spec/ the statement follows; a statement
that rests on a choice of the model names the log entry. -/

open Sys2Proof Sys2Proof.Machine

namespace Sys2Proof.Machine

/-- The host's next statement is a write of v to the word at a: `WR`, or `WRV` with the variable's value (R86). -/
abbrev HostWrites (s : State) (a : WordAddr) (v : Word) : Prop :=
  s.host.prog[s.host.pc]? = some (.wr a v) ∨
    ∃ n, s.host.prog[s.host.pc]? = some (.wrv a n) ∧ v = hostVar s n

/-- Nothing of the block differs between s and t. -/
abbrev SameBlock (s t : State) : Prop :=
  t.st = s.st ∧ t.key = s.key ∧ t.rk = s.rk ∧ t.gfA = s.gfA ∧ t.gfB = s.gfB ∧ t.gfY = s.gfY ∧
    t.keyValid = s.keyValid ∧ t.err = s.err ∧ t.errCode = s.errCode ∧ t.pend = s.pend

/-- The host, the draws and the order of the steps do not differ between s and t. -/
abbrev SameOutside (s t : State) : Prop := t.host = s.host ∧ t.draws = s.draws ∧ t.sched = s.sched

/-- The fields no command writes: KEY, GF_A and GF_B, and with them every byte of the window that is readable at all times
and belongs to a data register (R24, R29, R30, R39). -/
abbrev SameOperands (s t : State) : Prop :=
  t.key = s.key ∧ t.gfA = s.gfA ∧ t.gfB = s.gfB ∧
    ∀ a : BitVec 9, 0x010 ≤ a.toNat → a.toNat < 0x028 → windowByte a t = windowByte a s

/-- ERR and ERRCODE stay as they are when command i is accepted and when it completes. -/
abbrev SameErrors (i : Instr) (s t : State) : Prop :=
  (s.pend = none → i.WellFormed → (needsKey i = true → s.keyValid = true) → t.err = s.err ∧ t.errCode = s.errCode) ∧
    (∀ x, s.pend = some ⟨i, x⟩ → t.err = s.err ∧ t.errCode = s.errCode)

/-- The opcode numbers R76 calls illegal. -/
abbrev IllegalOpc (o : Nat) : Prop :=
  (0x04 ≤ o ∧ o ≤ 0x0F) ∨ (0x15 ≤ o ∧ o ≤ 0x1F) ∨ (0x21 ≤ o ∧ o ≤ 0x2F) ∨ (0x34 ≤ o ∧ o ≤ 0x3F) ∨ 0x42 ≤ o

/-- The legal command words of R84, each with the command it is. -/
def specWords : List (Word × Instr) :=
  [(0x00000000, .nop), (0x00000001, .gfadd), (0x00000002, .gfmul), (0x00000003, .xtime), (0x00000010, .shrows),
   (0x00000011, .ishrows), (0x00000012, .mixcols), (0x00000013, .imixcols), (0x00000020, .keyexp),
   (0x00000031, .fround), (0x00000033, .ifround), (0x00000040, .enc), (0x00000041, .dec)] ++
  [(0x00000014, .ark 0), (0x00000114, .ark 1), (0x00000214, .ark 2), (0x00000314, .ark 3), (0x00000414, .ark 4),
   (0x00000514, .ark 5), (0x00000614, .ark 6), (0x00000714, .ark 7), (0x00000814, .ark 8), (0x00000914, .ark 9),
   (0x00000A14, .ark 10)] ++
  [(0x00000130, .round 1), (0x00000230, .round 2), (0x00000330, .round 3), (0x00000430, .round 4),
   (0x00000530, .round 5), (0x00000630, .round 6), (0x00000730, .round 7), (0x00000830, .round 8),
   (0x00000930, .round 9)] ++
  [(0x00000132, .iround 1), (0x00000232, .iround 2), (0x00000332, .iround 3), (0x00000432, .iround 4),
   (0x00000532, .iround 5), (0x00000632, .iround 6), (0x00000732, .iround 7), (0x00000832, .iround 8),
   (0x00000932, .iround 9)]

/-- The state with f applied to each byte alone. -/
def mapBytes (f : Byte → Byte) (S : Mat) : Mat := .ofFn fun r c => f (S.get r c)

/-- Bytewise sum of two blocks. -/
def addBlock (a b : Block) : Block := Vector.ofFn fun n => a[n] ^^^ b[n]

/-- Each byte of a block times c. -/
def scaleBlock (c : Byte) (a : Block) : Block := Vector.ofFn fun n => gfmul c a[n]

/-- The key e_j: byte j is 0x01, the rest 0x00 (R184). -/
def unitKey (j : Fin 16) : Block := Vector.ofFn fun n => if n = j then 0x01 else 0x00

/-- The encryption of the zero block under key K (R184). -/
def zeroBlockCipher (K : Block) : Block := store (encrypt (keySchedule K) .zero)

/-- R133: row i of the inverse matrix Minv. -/
def minvRow (i : Fin 4) : Column :=
  match i with
  | 0 => ⟨14, 11, 13, 9⟩
  | 1 => ⟨9, 14, 11, 13⟩
  | 2 => ⟨13, 9, 14, 11⟩
  | 3 => ⟨11, 13, 9, 14⟩

/-- R124: PSR. -/
def psr : Vector (Fin 16) 16 := #v[0, 5, 10, 15, 4, 9, 14, 3, 8, 13, 2, 7, 12, 1, 6, 11]

/-- R124: PISR. -/
def pisr : Vector (Fin 16) 16 := #v[0, 13, 10, 7, 4, 1, 14, 11, 8, 5, 2, 15, 12, 9, 6, 3]

end Sys2Proof.Machine

/-! ## The command word -/

/-- 30_encoding.md R71, R82, R85: the decoder gives back every command that has a word, at every index. -/
def Obligations.DecodeOfEncode : Prop :=
  ∀ i : Instr, i.WellFormed → decode (encode i) = .ok i

/-- 30_encoding.md R82: a word that decodes is the encoding of a well-formed command, so no bit is ignored. -/
def Obligations.EncodeOfDecode : Prop :=
  ∀ (v : Word) (i : Instr), decode v = .ok i → i.WellFormed ∧ encode i = v

/-- R76, R77, R79, and the check of R78: what a CMD write of a rejected word does while BUSY = 0. -/
def Obligations.RejectedWordsRecordTheirError : Prop :=
  ∀ (v : Word) (s : State), s.pend = none →
    (IllegalOpc (v.toNat % 256) → memWrite (wordAddr 0x030) v s = .settled (raise .illegalOpcode s)) ∧
    (¬ IllegalOpc (v.toNat % 256) → v.toNat / 4096 ≠ 0 →
      memWrite (wordAddr 0x030) v s = .settled (raise .reservedField s)) ∧
    (¬ IllegalOpc (v.toNat % 256) → v.toNat % 256 ≠ 0x14 → v.toNat % 256 ≠ 0x30 → v.toNat % 256 ≠ 0x32 →
      v.toNat / 4096 = 0 → v.toNat / 256 ≠ 0 → memWrite (wordAddr 0x030) v s = .settled (raise .reservedField s)) ∧
    (v.toNat % 256 = 0x14 → v.toNat / 4096 = 0 → 10 < v.toNat / 256 →
      memWrite (wordAddr 0x030) v s = .settled (raise .badRidx s)) ∧
    (v.toNat % 256 = 0x30 ∨ v.toNat % 256 = 0x32 → v.toNat / 4096 = 0 → v.toNat / 256 = 0 ∨ 9 < v.toNat / 256 →
      memWrite (wordAddr 0x030) v s = .settled (raise .badRidx s)) ∧
    (∀ e : ErrCode, raise e s = { s with err := (raise e s).err, errCode := (raise e s).errCode })

/-- 30_encoding.md R83, R84 (derived there): 42 words are legal, and these are they. -/
def Obligations.LegalCommandWords : Prop :=
  specWords.length = 42 ∧ (specWords.map Prod.fst).Nodup ∧
    ∀ (v : Word) (i : Instr), decode v = .ok i ↔ (v, i) ∈ specWords

/-- 95_test_vectors.md section 2.9 and 30_encoding.md section 2 (the opcode map, R74, the decoder, R82, and the legal words,
R84): words of every family, and of every kind of rejection. -/
def Obligations.SampleWordsDecode : Prop :=
  decode 0x00000000 = .ok .nop ∧ decode 0x00000003 = .ok .xtime ∧ decode 0x00000010 = .ok .shrows ∧
    decode 0x00000013 = .ok .imixcols ∧ decode 0x00000A14 = .ok (.ark 10) ∧ decode 0x00000020 = .ok .keyexp ∧
    decode 0x00000930 = .ok (.round 9) ∧ decode 0x00000932 = .ok (.iround 9) ∧ decode 0x00000041 = .ok .dec ∧
    decode 0xFFFFFFFF = .error .illegalOpcode ∧ decode 0xFFFFFF02 = .error .reservedField ∧
    decode 0x00000A31 = .error .reservedField ∧ decode 0x00000B14 = .error .badRidx ∧
    decode 0x00000030 = .error .badRidx

/-! ## Steps -/

/-- R89: a host write to CMD, while BUSY = 0, of a word that decodes to i: the step is `exec i`, the host at its next
statement and the turn used up. -/
def Obligations.StepRunsIssuedCommand : Prop :=
  ∀ (s : State) (v : Word) (i : Instr), s.turn = .host → s.pend = none → HostWrites s (wordAddr 0x030) v →
    decode v = .ok i → step s = exec i (hostNext (dropTurn s))

/-- R92: on the sequencer's turn the step is `exec` of the pending command, the turn used up. -/
def Obligations.StepCompletesPendingCommand : Prop :=
  ∀ (s : State) (p : Pending), s.turn = .sequencer → s.pend = some p → step s = exec p.cmd (dropTurn s)

/-- 70_reset_and_hazards.md R252, "The block never halts": in every state a step answers a next state. -/
def Obligations.StepAlwaysAnswers : Prop :=
  ∀ s : State, ∃ t, step s = .next t

/-- R91: a pending command completes eventually.  The bound is the model's own schedule, log entry 3. -/
def Obligations.PendingCommandEnds : Prop :=
  ∀ s : State, ∃ n t, n ≤ s.sched.length + 1 ∧ Host.Core.run Sys2Proof.core n s = .next t ∧ t.pend = none

/-! ## The field unit's functions -/

/-- R104: double-and-reduce gives the carry-less product reduced modulo 0x11B, for all 65536 pairs. -/
def Obligations.GfmulIsReferenceProduct : Prop :=
  ∀ a b : Byte, gfmul a b = gfmulRef a b

/-- 40_field.md section 3, R108 (derived there): the laws of the field. -/
def Obligations.FieldLaws : Prop :=
  (∀ a b : Byte, gfadd a b = gfadd b a ∧ gfmul a b = gfmul b a) ∧
    (∀ a b c : Byte, gfadd (gfadd a b) c = gfadd a (gfadd b c) ∧ gfmul (gfmul a b) c = gfmul a (gfmul b c)) ∧
    (∀ a b c : Byte, gfmul a (gfadd b c) = gfadd (gfmul a b) (gfmul a c)) ∧
    (∀ a : Byte, gfadd a 0 = a ∧ gfmul a 0 = 0 ∧ gfmul a 1 = a ∧ gfadd a a = 0) ∧
    (∀ a : Byte, a ≠ 0 → ∃! b : Byte, gfmul a b = 1)

/-- 40_field.md section 3, R110 and R111 (derived there): the constant products, and linearity in each argument. -/
def Obligations.FieldFunctionsLinear : Prop :=
  (∀ a : Byte, gfmul 1 a = a ∧ gfmul 2 a = xtime a ∧ gfmul 3 a = xtime a ^^^ a ∧ gfmul 4 a = xtime (xtime a) ∧
      gfmul 9 a = xtime (xtime (xtime a)) ^^^ a ∧ gfmul 11 a = xtime (xtime (xtime a)) ^^^ xtime a ^^^ a ∧
      gfmul 13 a = xtime (xtime (xtime a)) ^^^ xtime (xtime a) ^^^ a ∧
      gfmul 14 a = xtime (xtime (xtime a)) ^^^ xtime (xtime a) ^^^ xtime a) ∧
    (∀ a b c : Byte, gfmul (a ^^^ b) c = gfmul a c ^^^ gfmul b c ∧ gfmul c (a ^^^ b) = gfmul c a ^^^ gfmul c b) ∧
    (∀ a b : Byte, xtime (a ^^^ b) = xtime a ^^^ xtime b)

/-! ## The state permutations and the column mix -/

/-- 41_shiftrows.md section 1, R124, and 00_scope.md section 6, R13 (derived there): load and store are mutually inverse,
and on the 16-byte block the rotations are the wirings PSR and PISR. -/
def Obligations.BlockWirings : Prop :=
  (∀ blk : Block, store (load blk) = blk) ∧ (∀ S : Mat, load (store S) = S) ∧
    (∀ (S : Mat) (n : Fin 16), (store S)[n] =
      S.get ⟨n.val % 4, Nat.mod_lt _ (by decide)⟩ ⟨n.val / 4, Nat.div_lt_of_lt_mul n.isLt⟩) ∧
    (∀ (blk : Block) (n : Fin 16), (store (shiftRows (load blk)))[n] = blk[psr[n]] ∧
      (store (invShiftRows (load blk)))[n] = blk[pisr[n]])

/-- 41_shiftrows.md section 1, R125 (derived there). -/
def Obligations.RowRotationProperties : Prop :=
  (∀ S : Mat, invShiftRows (shiftRows S) = S ∧ shiftRows (invShiftRows S) = S) ∧
    (∃ S : Mat, shiftRows (shiftRows S) ≠ S) ∧ (∃ S : Mat, invShiftRows (invShiftRows S) ≠ S) ∧
    (∀ (S : Mat) (c : Fin 4), S.get 1 c ≠ S.get 1 (c + 2) ∨ S.get 3 c ≠ S.get 3 (c + 2) →
      shiftRows (shiftRows S) ≠ S) ∧
    (∀ S : Mat, shiftRows (shiftRows (shiftRows (shiftRows S))) = S) ∧
    (∀ (S : Mat) (r c : Fin 4), (shiftRows S).get r c = S.get r (c + r) ∧ (invShiftRows S).get r c = S.get r (c - r)) ∧
    (∀ (f : Byte → Byte) (S : Mat), shiftRows (mapBytes f S) = mapBytes f (shiftRows S) ∧
      invShiftRows (mapBytes f S) = mapBytes f (invShiftRows S))

/-- R131: mixcol as the rows of M times the column, written out. -/
def Obligations.MixColWrittenOut : Prop :=
  ∀ a0 a1 a2 a3 : Byte,
    (mixCol ⟨a0, a1, a2, a3⟩ =
      ⟨gfmul 2 a0 ^^^ gfmul 3 a1 ^^^ gfmul 1 a2 ^^^ gfmul 1 a3, gfmul 1 a0 ^^^ gfmul 2 a1 ^^^ gfmul 3 a2 ^^^ gfmul 1 a3,
       gfmul 1 a0 ^^^ gfmul 1 a1 ^^^ gfmul 2 a2 ^^^ gfmul 3 a3, gfmul 3 a0 ^^^ gfmul 1 a1 ^^^ gfmul 1 a2 ^^^ gfmul 2 a3⟩) ∧
    (mixCol ⟨a0, a1, a2, a3⟩ =
      ⟨xtime a0 ^^^ (xtime a1 ^^^ a1) ^^^ a2 ^^^ a3, a0 ^^^ xtime a1 ^^^ (xtime a2 ^^^ a2) ^^^ a3,
       a0 ^^^ a1 ^^^ xtime a2 ^^^ (xtime a3 ^^^ a3), (xtime a0 ^^^ a0) ^^^ a1 ^^^ a2 ^^^ xtime a3⟩)

/-- 42_mixcolumns.md section 1, R133 (derived there): the double-xtime identity is multiplication by Minv, the inverse
of M on both sides. -/
def Obligations.InverseMixIsInverseMatrix : Prop :=
  (∀ (a : Column) (i : Fin 4), (invMixCol a).get i = rowTimes (minvRow i) a) ∧
    (∀ i j : Fin 4,
      rowTimes (mdsRow i) (.ofFn fun k => (minvRow k).get j) = (if i = j then 1 else 0) ∧
      rowTimes (minvRow i) (.ofFn fun k => (mdsRow k).get j) = (if i = j then 1 else 0))

/-- 42_mixcolumns.md section 1, R138 (derived there): of mixcol and invmixcol, and of MC and IMC over them. -/
def Obligations.ColumnMixProperties : Prop :=
  (∀ S : Mat, invMixColumns (mixColumns S) = S ∧ mixColumns (invMixColumns S) = S) ∧
    (mixCol ⟨1, 0, 0, 0⟩ = ⟨2, 1, 1, 3⟩ ∧ invMixCol ⟨1, 0, 0, 0⟩ = ⟨0x0E, 0x09, 0x0D, 0x0B⟩) ∧
    (∃ S : Mat, mixColumns (mixColumns S) ≠ S) ∧
    (∀ b : Byte, mixCol ⟨b, b, b, b⟩ = ⟨b, b, b, b⟩ ∧ invMixCol ⟨b, b, b, b⟩ = ⟨b, b, b, b⟩) ∧
    (∀ (S : Mat) (c : Fin 4) (b : Byte), S.col c = ⟨b, b, b, b⟩ →
      (mixColumns S).col c = S.col c ∧ (invMixColumns S).col c = S.col c) ∧
    (∀ S T : Mat, mixColumns (addRoundKey S T) = addRoundKey (mixColumns S) (mixColumns T) ∧
      invMixColumns (addRoundKey S T) = addRoundKey (invMixColumns S) (invMixColumns T)) ∧
    (∀ (c : Byte) (S : Mat), mixColumns (mapBytes (gfmul c) S) = mapBytes (gfmul c) (mixColumns S) ∧
      invMixColumns (mapBytes (gfmul c) S) = mapBytes (gfmul c) (invMixColumns S))

/-! ## Keys and rounds -/

/-- R150: AddRoundKey is XOR byte by byte, its own inverse, and adding zero changes nothing. -/
def Obligations.AddRoundKeySelfInverse : Prop :=
  ∀ S K : Mat, (∀ r c, (addRoundKey S K).get r c = S.get r c ^^^ K.get r c) ∧
    addRoundKey (addRoundKey S K) K = S ∧ addRoundKey S .zero = S

/-- R151, R152, R153: the 44 words and their grouping into 11 round keys. -/
def Obligations.KeyScheduleRecurrence : Prop :=
  ∀ key : Block,
    (∀ i k : Fin 4, (scheduleWord key i).get k = key[4 * i.val + k.val]) ∧
    (∀ i : Nat, 4 ≤ i → i ≤ 43 → scheduleWord key i = (scheduleWord key (i - 4)).add
      (if i % 4 = 0 then
        ⟨(scheduleWord key (i - 1)).b1 ^^^ rcon (i / 4), (scheduleWord key (i - 1)).b2,
         (scheduleWord key (i - 1)).b3, (scheduleWord key (i - 1)).b0⟩
       else scheduleWord key (i - 1))) ∧
    (∀ (j : Fin 11) (r c : Fin 4), (keySchedule key)[j].get r c = (scheduleWord key (4 * j.val + c.val)).get r) ∧
    (∀ j : Fin 11, (keySchedule key)[j] = ⟨scheduleWord key (4 * j.val), scheduleWord key (4 * j.val + 1),
      scheduleWord key (4 * j.val + 2), scheduleWord key (4 * j.val + 3)⟩)

/-- 43_key.md section 2, R156 and R157 (derived there): the round constants double from 1; round key 0 is the master key; the schedule is affine, over GF(2) and over
GF(2^8); the zero key's schedule is not zero. -/
def Obligations.KeyScheduleProperties : Prop :=
  (∀ K : Block, (keySchedule K)[0] = load K) ∧
    (∀ (K L : Block) (j : Fin 11), (keySchedule (addBlock K L))[j] =
      addRoundKey (addRoundKey (keySchedule K)[j] (keySchedule L)[j]) (keySchedule .zero)[j]) ∧
    (∀ (c : Byte) (K : Block) (j : Fin 11),
      addRoundKey (keySchedule (scaleBlock c K))[j] (keySchedule .zero)[j] =
        mapBytes (gfmul c) (addRoundKey (keySchedule K)[j] (keySchedule .zero)[j])) ∧
    store (keySchedule .zero)[1] = #v[1, 0, 0, 0, 1, 0, 0, 0, 1, 0, 0, 0, 1, 0, 0, 0] ∧
    (∀ j : Nat, 1 ≤ j → rcon (j + 1) = xtime (rcon j)) ∧
    [1, 2, 3, 4, 5, 6, 7, 8, 9, 10].map rcon = [0x01, 0x02, 0x04, 0x08, 0x10, 0x20, 0x40, 0x80, 0x1B, 0x36]

/-- R182: decryption undoes encryption, and encryption decryption, under every sequence of round keys; so DEC after ENC
restores ST. -/
def Obligations.DecryptUndoesEncrypt : Prop :=
  (∀ (rk : RoundKeys) (S : Mat), decrypt rk (encrypt rk S) = S ∧ encrypt rk (decrypt rk S) = S) ∧
    (∀ s : State, s.pend = none → s.keyValid = true →
      issueAll [.enc, .dec] s = .next s ∧ issueAll [.dec, .enc] s = .next s)

/-- 44_rounds.md section 2, R176 (derived there): an inverse round undoes a forward round one row rotation ahead, and not
without that rotation. -/
def Obligations.InverseRoundIsOneRotationAhead : Prop :=
  (∀ S K : Mat, inverseRound (shiftRows (forwardRound S K)) K = shiftRows S) ∧
    (∃ S K : Mat, inverseRound (forwardRound S K) K ≠ S)

/-- 44_rounds.md section 4, R184 (derived there): the ciphertext of the zero block is A·K + B over GF(2^8). -/
def Obligations.ZeroBlockCipherAffine : Prop :=
  ∀ (K : Block) (row : Fin 16), (zeroBlockCipher K)[row] =
    (List.finRange 16).foldl
      (fun acc j => acc ^^^ gfmul ((zeroBlockCipher (unitKey j))[row] ^^^ (zeroBlockCipher .zero)[row]) K[j])
      ((zeroBlockCipher .zero)[row])

/-! ## Commands: accepted, completed, rejected -/

/-- 30_encoding.md section 4 (accept, R90): an issued command that passes its checks is accepted, whatever ERR is: PEND takes
it with a snapshot, BUSY becomes 1, and nothing else changes.  That the snapshot holds all five operand registers, where R90
and R41 speak of those the opcode reads, is the model's form, log entry 4. -/
def Obligations.CommandsAccepted : Prop :=
  ∀ (i : Instr) (s : State), s.pend = none → i.WellFormed → (needsKey i = true → s.keyValid = true) →
    ∃ t, exec i s = .next t ∧ t = { s with pend := some ⟨i, ⟨s.st, s.key, s.rk, s.gfA, s.gfB⟩⟩ } ∧ t.busy = true

/-- GFADD, GFMUL and XTIME complete (40_field.md section 2): GF_Y takes the result, BUSY clears; and issued on an idle
block and waited for, on the values of GF_A and GF_B. -/
def Obligations.FieldCommandsComplete : Prop :=
  (∀ (s : State) (x : Snapshot), s.pend = some ⟨.gfadd, x⟩ →
      exec .gfadd s = .next { s with gfY := x.gfA ^^^ x.gfB, pend := none }) ∧
    (∀ (s : State) (x : Snapshot), s.pend = some ⟨.gfmul, x⟩ →
      exec .gfmul s = .next { s with gfY := gfmul x.gfA x.gfB, pend := none }) ∧
    (∀ (s : State) (x : Snapshot), s.pend = some ⟨.xtime, x⟩ →
      exec .xtime s = .next { s with gfY := xtime x.gfA, pend := none }) ∧
    (∀ s : State, s.pend = none →
      issueAndWait .gfadd s = .next { s with gfY := s.gfA ^^^ s.gfB } ∧
      issueAndWait .gfmul s = .next { s with gfY := gfmul s.gfA s.gfB } ∧
      issueAndWait .xtime s = .next { s with gfY := xtime s.gfA })

/-- SHROWS and ISHROWS complete (41_shiftrows.md section 2). -/
def Obligations.RowCommandsComplete : Prop :=
  (∀ (s : State) (x : Snapshot), s.pend = some ⟨.shrows, x⟩ →
      exec .shrows s = .next { s with st := shiftRows x.st, pend := none }) ∧
    (∀ (s : State) (x : Snapshot), s.pend = some ⟨.ishrows, x⟩ →
      exec .ishrows s = .next { s with st := invShiftRows x.st, pend := none }) ∧
    (∀ s : State, s.pend = none →
      issueAndWait .shrows s = .next { s with st := shiftRows s.st } ∧
      issueAndWait .ishrows s = .next { s with st := invShiftRows s.st })

/-- MIXCOLS and IMIXCOLS complete (42_mixcolumns.md section 2), where MC applies mixcol and IMC invmixcol to each column on
its own (42_mixcolumns.md section 1, R134 and R135). -/
def Obligations.ColumnCommandsComplete : Prop :=
  (∀ (S : Mat) (c : Fin 4),
      (mixColumns S).col c = mixCol (S.col c) ∧ (invMixColumns S).col c = invMixCol (S.col c) ∧
      S.col c = ⟨S.get 0 c, S.get 1 c, S.get 2 c, S.get 3 c⟩) ∧
  (∀ (s : State) (x : Snapshot), s.pend = some ⟨.mixcols, x⟩ →
      exec .mixcols s = .next { s with st := mixColumns x.st, pend := none }) ∧
    (∀ (s : State) (x : Snapshot), s.pend = some ⟨.imixcols, x⟩ →
      exec .imixcols s = .next { s with st := invMixColumns x.st, pend := none }) ∧
    (∀ s : State, s.pend = none →
      issueAndWait .mixcols s = .next { s with st := mixColumns s.st } ∧
      issueAndWait .imixcols s = .next { s with st := invMixColumns s.st })

/-- ARK completes, at every index 0..10 (43_key.md section 3). -/
def Obligations.ArkCompletes : Prop :=
  (∀ (k : Fin 11) (s : State) (x : Snapshot), s.pend = some ⟨.ark k, x⟩ →
      exec (.ark k) s = .next { s with st := addRoundKey x.st x.rk[k], pend := none }) ∧
    (∀ (k : Fin 11) (s : State), s.pend = none → s.keyValid = true →
      issueAndWait (.ark k) s = .next { s with st := addRoundKey s.st s.rk[k] })

/-- KEYEXP completes: all 11 round keys and KEYVALID (43_key.md section 3). -/
def Obligations.KeyexpCompletes : Prop :=
  (∀ (s : State) (x : Snapshot), s.pend = some ⟨.keyexp, x⟩ →
      exec .keyexp s = .next { s with rk := keySchedule x.key, keyValid := true, pend := none }) ∧
    (∀ s : State, s.pend = none →
      issueAndWait .keyexp s = .next { s with rk := keySchedule s.key, keyValid := true })

/-- ROUND, FROUND, IROUND and IFROUND complete (44_rounds.md section 2). -/
def Obligations.RoundCommandsComplete : Prop :=
  (∀ (k : Fin 11) (s : State) (x : Snapshot), 1 ≤ k.val → k.val ≤ 9 → s.pend = some ⟨.round k, x⟩ →
      exec (.round k) s = .next { s with st := addRoundKey (mixColumns (shiftRows x.st)) x.rk[k], pend := none }) ∧
    (∀ (k : Fin 11) (s : State) (x : Snapshot), 1 ≤ k.val → k.val ≤ 9 → s.pend = some ⟨.iround k, x⟩ →
      exec (.iround k) s =
        .next { s with st := invMixColumns (addRoundKey (invShiftRows x.st) x.rk[k]), pend := none }) ∧
    (∀ (s : State) (x : Snapshot), s.pend = some ⟨.fround, x⟩ →
      exec .fround s = .next { s with st := addRoundKey (shiftRows x.st) x.rk[10], pend := none }) ∧
    (∀ (s : State) (x : Snapshot), s.pend = some ⟨.ifround, x⟩ →
      exec .ifround s = .next { s with st := addRoundKey (invShiftRows x.st) x.rk[0], pend := none }) ∧
    (∀ (k : Fin 11) (s : State), s.pend = none → s.keyValid = true → 1 ≤ k.val → k.val ≤ 9 →
      issueAndWait (.round k) s = .next { s with st := addRoundKey (mixColumns (shiftRows s.st)) s.rk[k] } ∧
      issueAndWait (.iround k) s =
        .next { s with st := invMixColumns (addRoundKey (invShiftRows s.st) s.rk[k]) } ∧
      issueAndWait .fround s = .next { s with st := addRoundKey (shiftRows s.st) s.rk[10] } ∧
      issueAndWait .ifround s = .next { s with st := addRoundKey (invShiftRows s.st) s.rk[0] })

/-- ENC and DEC complete (44_rounds.md section 3). -/
def Obligations.CipherCommandsComplete : Prop :=
  (∀ (s : State) (x : Snapshot), s.pend = some ⟨.enc, x⟩ →
      exec .enc s = .next { s with st := encrypt x.rk x.st, pend := none }) ∧
    (∀ (s : State) (x : Snapshot), s.pend = some ⟨.dec, x⟩ →
      exec .dec s = .next { s with st := decrypt x.rk x.st, pend := none }) ∧
    (∀ s : State, s.pend = none → s.keyValid = true →
      issueAndWait .enc s = .next { s with st := encrypt s.rk s.st } ∧
      issueAndWait .dec s = .next { s with st := decrypt s.rk s.st })

/-- NOP completes and leaves every register as it was (45_nop.md R190). -/
def Obligations.NopCompletes : Prop :=
  (∀ (s : State) (x : Snapshot), s.pend = some ⟨.nop, x⟩ → exec .nop s = .next { s with pend := none }) ∧
    (∀ s : State, s.pend = none → issueAndWait .nop s = .next s)

/-- 44_rounds.md section 4, R186 (derived there): ENC and DEC are their single-round commands in order. -/
def Obligations.CipherCommandsDecompose : Prop :=
  ∀ s : State, s.pend = none → s.keyValid = true →
    issueAll [.ark 0, .round 1, .round 2, .round 3, .round 4, .round 5, .round 6, .round 7, .round 8, .round 9, .fround] s
      = issueAndWait .enc s ∧
    issueAll [.ark 10, .iround 9, .iround 8, .iround 7, .iround 6, .iround 5, .iround 4, .iround 3, .iround 2, .iround 1,
        .ifround] s
      = issueAndWait .dec s

/-- 30_encoding.md section 4, R92 and R208: every accepted command completes, clears BUSY and records no error. -/
def Obligations.CompletionRecordsNoError : Prop :=
  ∀ (s : State) (p : Pending), s.pend = some p →
    ∃ t, exec p.cmd s = .next t ∧ t.pend = none ∧ t.busy = false ∧ t.err = s.err ∧ t.errCode = s.errCode

/-- R203: a command that reads RK is rejected with NO_KEY while KEYVALID = 0, after decode. -/
def Obligations.KeyCommandsNeedKeyValid : Prop :=
  (∀ (i : Instr) (s : State), i.opc ∈ ([0x14, 0x30, 0x31, 0x32, 0x33, 0x40, 0x41] : List (BitVec 8)) → i.WellFormed →
      s.pend = none → s.keyValid = false → exec i s = .next (raise .noKey s)) ∧
    (∀ (i : Instr) (s : State), i.opc ∉ ([0x14, 0x30, 0x31, 0x32, 0x33, 0x40, 0x41] : List (BitVec 8)) →
      s.pend = none → exec i s = .next (accept i s)) ∧
    (∀ (v : Word) (e : ErrCode) (s : State), s.pend = none → decode v = .error e →
      e ≠ .noKey ∧ memWrite (wordAddr 0x030) v s = .settled (raise e s))

/-- A ROUND or IROUND whose index is outside 1..9 is rejected with BAD_RIDX when issued, whatever KEYVALID is
(60_exceptions.md section 2, check 4c before 4d); and `exec` of a command while another one is pending records BUSY_WRITE
and leaves the pending one (the model's reading of R204 inside `exec`, log entry 5). -/
def Obligations.IssueChecksInsideExec : Prop :=
  (∀ (k : Fin 11) (s : State), s.pend = none → k.val = 0 ∨ 9 < k.val →
      exec (.round k) s = .next (raise .badRidx s) ∧ exec (.iround k) s = .next (raise .badRidx s)) ∧
    (∀ (i : Instr) (p : Pending) (s : State), s.pend = some p → p.cmd ≠ i →
      ∃ t, exec i s = .next t ∧ t = raise .busyWrite s ∧ t.pend = some p)

/-! ## Frames -/

/-- GFADD, GFMUL and XTIME write GF_Y and BUSY only, and ERR and ERRCODE only when rejected. -/
def Obligations.FieldCommandFrame : Prop :=
  ∀ (i : Instr) (s t : State), i = .gfadd ∨ i = .gfmul ∨ i = .xtime → exec i s = .next t →
    SameOperands s t ∧ SameErrors i s t ∧ SameOutside s t ∧ t.st = s.st ∧ t.rk = s.rk ∧ t.keyValid = s.keyValid

/-- The commands that write ST write ST and BUSY only, and ERR and ERRCODE only when rejected (R21). -/
def Obligations.StateCommandFrame : Prop :=
  ∀ (i : Instr) (s t : State),
    i = .shrows ∨ i = .ishrows ∨ i = .mixcols ∨ i = .imixcols ∨ (∃ k, i = .ark k) ∨ (∃ k, i = .round k) ∨ i = .fround ∨
      (∃ k, i = .iround k) ∨ i = .ifround ∨ i = .enc ∨ i = .dec → exec i s = .next t →
    SameOperands s t ∧ SameErrors i s t ∧ SameOutside s t ∧ t.gfY = s.gfY ∧ t.rk = s.rk ∧ t.keyValid = s.keyValid

/-- KEYEXP writes RK, KEYVALID and BUSY only; NOP writes BUSY only; ERR and ERRCODE only when rejected. -/
def Obligations.KeyexpAndNopFrame : Prop :=
  (∀ s t : State, exec .keyexp s = .next t →
      SameOperands s t ∧ SameErrors .keyexp s t ∧ SameOutside s t ∧ t.st = s.st ∧ t.gfY = s.gfY) ∧
    (∀ s t : State, exec .nop s = .next t →
      SameOperands s t ∧ SameErrors .nop s t ∧ SameOutside s t ∧ t.st = s.st ∧ t.gfY = s.gfY ∧ t.rk = s.rk ∧
        t.keyValid = s.keyValid)

/-! ## Host accesses -/

/-- R204: a write to STATE, KEY, GF_A, GF_B or CMD while BUSY = 1 is rejected with BUSY_WRITE, whatever the word; nothing but
ERR and ERRCODE changes, and the pending command stays. -/
def Obligations.BusyWritesRejected : Prop :=
  ∀ (a : WordAddr) (v : Word) (s : State), s.busy = true → a.toNat ≤ 9 ∨ a.toNat = 12 →
    ∃ t, memWrite a v s = .settled t ∧ t = raise .busyWrite s ∧ t.st = s.st ∧ t.key = s.key ∧ t.gfA = s.gfA ∧
      t.gfB = s.gfB ∧ t.pend = s.pend ∧ t.keyValid = s.keyValid ∧ t.rk = s.rk ∧ t.gfY = s.gfY ∧ SameOutside s t

/-- R205, R54: a write to GF_Y, to an RK word or to a reserved address is rejected with BAD_WRITE, while BUSY = 1 too. -/
def Obligations.BadWritesRejected : Prop :=
  ∀ (a : WordAddr) (v : Word) (s : State), a.toNat = 0x028 / 4 ∨ a.toNat = 0x02C / 4 ∨ 0x038 / 4 ≤ a.toNat →
    ∃ t, memWrite a v s = .settled t ∧ t = raise .badWrite s ∧
      t = { s with err := t.err, errCode := t.errCode }

/-- R206: the first error since the last clear is recorded with its code, a later one is lost, nothing else changes. -/
def Obligations.FirstErrorKept : Prop :=
  (∀ (e : ErrCode) (s : State), s.err = false → raise e s = { s with err := true, errCode := e.code }) ∧
    (∀ (e : ErrCode) (s : State), s.err = true → raise e s = s) ∧
    [ErrCode.illegalOpcode, .reservedField, .badRidx, .noKey, .busyWrite, .badWrite].map ErrCode.code = [1, 2, 3, 4, 5, 6]

/-- R35, R210: a STATUS write clears ERR and ERRCODE when its bit 2 is set, whatever BUSY is, and does nothing else; over any
step a recorded error stays, with its code, but for such a write or reset; and an error raised after the clear is recorded
afresh. -/
def Obligations.StatusWriteClears : Prop :=
  (∀ (v : Word) (s : State),
    (v.getLsbD 2 = true → memWrite (wordAddr 0x034) v s = .settled { s with err := false, errCode := 0 }) ∧
    (v.getLsbD 2 = false → memWrite (wordAddr 0x034) v s = .settled s)) ∧
  (∀ (v : Word) (s : State), s.turn = .host → HostWrites s (wordAddr 0x034) v →
    (v.getLsbD 2 = true → step s = .next { hostNext (dropTurn s) with err := false, errCode := 0 }) ∧
    (v.getLsbD 2 = false → step s = .next (hostNext (dropTurn s)))) ∧
  (∀ s t : State, s.err = true → step s = .next t →
    (t.err = true ∧ t.errCode = s.errCode) ∨
    (s.turn = .host ∧ (∃ v, HostWrites s (wordAddr 0x034) v ∧ v.getLsbD 2 = true) ∧ t.err = false ∧ t.errCode = 0) ∨
    ((s.turn = .reset ∨ s.turn = .hostInReset) ∧ t.err = false ∧ t.errCode = 0)) ∧
  ∀ (e : ErrCode) (s : State), raise e (clearError s) = { s with err := true, errCode := e.code }

/-- R36: a STATUS read returns BUSY, KEYVALID, ERR and ERRCODE in their places and zeros elsewhere, and changes nothing. -/
def Obligations.StatusReadsFlags : Prop :=
  ∀ s : State, (memRead (wordAddr 0x034) s).2 = s ∧
    (memRead (wordAddr 0x034) s).1.toNat =
      s.busy.toNat + 2 * s.keyValid.toNat + 4 * s.err.toNat + 16 * s.errCode.toNat

/-- R23: a STATE write replaces its column only; while BUSY = 1 it changes no column. -/
def Obligations.StateWriteReplacesColumn : Prop :=
  ∀ (c : Fin 4) (v : Word) (s : State), ∃ t, memWrite (wordAddr (4 * c.val)) v s = .settled t ∧
    (s.busy = true → t = raise .busyWrite s ∧ t.st = s.st) ∧
    (s.busy = false → (∀ k : Fin 4, t.st.get k c = v.extractLsb' (8 * k.val) 8) ∧
      (∀ d : Fin 4, d ≠ c → t.st.col d = s.st.col d) ∧ t = { s with st := t.st })

/-- R25: a KEY write replaces its four bytes and clears KEYVALID; while BUSY = 1 it changes neither. -/
def Obligations.KeyWriteClearsKeyValid : Prop :=
  ∀ (w : Fin 4) (v : Word) (s : State), ∃ t, memWrite (wordAddr (0x010 + 4 * w.val)) v s = .settled t ∧
    (s.busy = true → t = raise .busyWrite s ∧ t.key = s.key ∧ t.keyValid = s.keyValid) ∧
    (s.busy = false → t = { s with key := t.key, keyValid := false } ∧
      ∀ n : Fin 16, t.key[n] = if n.val / 4 = w.val then v.extractLsb' (8 * (n.val % 4)) 8 else s.key[n])

/-- 10_state.md section 5 (R29, R30, R31): GF_A and GF_B take bits [7:0] and read back zero-extended, at all times; GF_Y
reads zero-extended while BUSY = 0. -/
def Obligations.FieldRegisterAccess : Prop :=
  ∀ (v : Word) (s : State),
    (s.pend = none → memWrite (wordAddr 0x020) v s = .settled { s with gfA := BitVec.ofNat 8 v.toNat } ∧
      memWrite (wordAddr 0x024) v s = .settled { s with gfB := BitVec.ofNat 8 v.toNat } ∧
      memRead (wordAddr 0x028) s = (BitVec.ofNat 32 s.gfY.toNat, s)) ∧
    memRead (wordAddr 0x020) s = (BitVec.ofNat 32 s.gfA.toNat, s) ∧
    memRead (wordAddr 0x024) s = (BitVec.ofNat 32 s.gfB.toNat, s)

/-- R53: a reserved address reads as zero, and so does CMD (R38), with no side effect and no error, at all times. -/
def Obligations.ReservedReadsZero : Prop :=
  ∀ (a : WordAddr) (s : State),
    a.toNat = 0x02C / 4 ∨ a.toNat = 0x030 / 4 ∨ (0x038 / 4 ≤ a.toNat ∧ a.toNat ≤ 0x0FC / 4) ∨ 0x1B0 / 4 ≤ a.toNat →
    memRead a s = (0, s)

/-- 10_state.md section 8, R39: while BUSY = 1 a STATE word, GF_Y or an RK word reads as a draw and only the count of draws
changes; KEY words read as ever.  That the n-th draw is `Config.draw n` is the model's form, log entry 1. -/
def Obligations.BusyReadsAreDraws : Prop :=
  ∀ (a : WordAddr) (s : State), s.busy = true →
    (a.toNat ≤ 3 ∨ a.toNat = 0x028 / 4 ∨ (0x100 / 4 ≤ a.toNat ∧ a.toNat ≤ 0x1AC / 4) →
      memRead a s = (Config.draw s.draws, { s with draws := s.draws + 1 })) ∧
    (4 ≤ a.toNat ∧ a.toNat ≤ 7 → (memRead a s).2 = s ∧
      ∀ k : Fin 4, laneOf (memRead a s).1 k = s.key[(4 * (a.toNat - 4) + k.val) % 16]'(Nat.mod_lt _ (by decide)))

/-- R49: the 16-byte values in the window, byte by byte, with BUSY = 0. -/
def Obligations.WindowBytesAreBlockBytes : Prop :=
  ∀ s : State, s.pend = none →
    (∀ n : Fin 16, windowByte (BitVec.ofNat 9 n.val) s = (store s.st)[n]) ∧
    (∀ n : Fin 16, windowByte (BitVec.ofNat 9 (0x010 + n.val)) s = s.key[n]) ∧
    (∀ (j : Fin 11) (n : Fin 16), windowByte (BitVec.ofNat 9 (0x100 + 16 * j.val + n.val)) s = (store s.rk[j])[n]) ∧
    (∀ c : Fin 4, (memRead (wordAddr (4 * c.val)) s).1 = s.st.get 3 c ++ s.st.get 2 c ++ s.st.get 1 c ++ s.st.get 0 c) ∧
    (∀ w : Fin 4, (memRead (wordAddr (0x010 + 4 * w.val)) s).1 =
      s.key[4 * w.val + 3] ++ s.key[4 * w.val + 2] ++ s.key[4 * w.val + 1] ++ s.key[4 * w.val]) ∧
    (s.st = load #v[0, 1, 2, 3, 4, 5, 6, 7, 8, 9, 10, 11, 12, 13, 14, 15] →
      (memRead (wordAddr 0x000) s).1 = 0x03020100 ∧ (memRead (wordAddr 0x004) s).1 = 0x07060504 ∧
      (memRead (wordAddr 0x008) s).1 = 0x0B0A0908 ∧ (memRead (wordAddr 0x00C) s).1 = 0x0F0E0D0C)

/-- 20_memory.md section 6, R61: an accepted write to STATE, KEY, GF_A or GF_B is what the next read of it returns. -/
def Obligations.WriteThenReadBack : Prop :=
  ∀ (a : WordAddr) (v : Word) (s : State), s.pend = none →
    (a.toNat ≤ 7 → ∃ t, memWrite a v s = .settled t ∧ (memRead a t).1 = v) ∧
    (a.toNat = 8 ∨ a.toNat = 9 → ∃ t, memWrite a v s = .settled t ∧ (memRead a t).1 = v &&& 0xFF)

/-! ## Rules of the whole machine -/

/-- R34: KEYVALID changes in exactly three ways. -/
def Obligations.KeyValidChangesThreeWays : Prop :=
  (∀ s t : State, step s = .next t → t.keyValid ≠ s.keyValid →
      (s.turn = .sequencer ∧ (∃ x, s.pend = some ⟨.keyexp, x⟩) ∧ t.keyValid = true) ∨
      (s.turn = .host ∧ s.pend = none ∧ (∃ w v, regAt w = .key v ∧ ∃ d, HostWrites s w d) ∧ t.keyValid = false) ∨
      ((s.turn = .reset ∨ s.turn = .hostInReset) ∧ t.keyValid = false)) ∧
    (∀ (s : State) (x : Snapshot), s.turn = .sequencer → s.pend = some ⟨.keyexp, x⟩ →
      ∃ t, step s = .next t ∧ t.keyValid = true) ∧
    (∀ (s : State) (w : Fin 4) (d : Word), s.turn = .host → s.pend = none →
      HostWrites s (wordAddr (0x010 + 4 * w.val)) d → ∃ t, step s = .next t ∧ t.keyValid = false) ∧
    (∀ s : State, s.turn = .reset ∨ s.turn = .hostInReset → ∃ t, step s = .next t ∧ t.keyValid = false)

/-- 10_state.md section 4, R26: RK is written by the completion of KEYEXP, all 11 at once, and by reset; by nothing else. -/
def Obligations.RoundKeysWrittenByKeyexp : Prop :=
  ∀ s t : State, step s = .next t → t.rk ≠ s.rk →
    (s.turn = .sequencer ∧ ∃ x, s.pend = some ⟨.keyexp, x⟩ ∧ t.rk = keySchedule x.key) ∨
    ((s.turn = .reset ∨ s.turn = .hostInReset) ∧ t.rk = Vector.replicate 11 .zero)

/-- 10_state.md section 3, R24: KEY is changed by a host write to a KEY word and by reset; by no command. -/
def Obligations.KeyWrittenByHostOnly : Prop :=
  ∀ s t : State, step s = .next t → t.key ≠ s.key →
    (s.turn = .host ∧ s.pend = none ∧ ∃ a w d, regAt a = .key w ∧ HostWrites s a d ∧ t.key = setKeyWord s.key w d) ∨
    ((s.turn = .reset ∨ s.turn = .hostInReset) ∧ t.key = .zero)

/-- The invariant: ERRCODE fits ERR, KEYVALID = 1 only while RK is the schedule of KEY (R27), a pending command was legal
and its snapshot is still what the registers hold (R42).  Every step of every state keeps it. -/
def Obligations.EveryStepKeepsInvariant : Prop :=
  ∀ s t : State, s.Inv → step s = .next t → t.Inv

/-- Reset meets the invariant. -/
def Obligations.ResetMeetsInvariant : Prop := State.reset.Inv

/-! ## Reset and the host -/

/-- R230: what reset leaves, in one step, whether or not the host moves in that cycle and whatever its next statement is;
STATUS reads 0, and so does every word of the window (95_test_vectors.md section 2.11). -/
def Obligations.ResetValues : Prop :=
  (∀ r c : Fin 4, State.reset.st.get r c = 0) ∧ (∀ n : Fin 16, State.reset.key[n] = 0) ∧
    (∀ (j : Fin 11) (r c : Fin 4), State.reset.rk[j].get r c = 0) ∧ State.reset.gfA = 0 ∧ State.reset.gfB = 0 ∧
    State.reset.gfY = 0 ∧ State.reset.busy = false ∧ State.reset.keyValid = false ∧ State.reset.err = false ∧
    State.reset.errCode = 0 ∧ State.reset.pend = none ∧ statusWord State.reset = 0 ∧
    (∀ a : WordAddr, memRead a State.reset = (0, State.reset)) ∧
    ∀ s : State, s.turn = .reset ∨ s.turn = .hostInReset → ∃ t, step s = .next t ∧ SameBlock State.reset t

/-- 70_reset_and_hazards.md section 1 (R231): a reset edge, with the host at rest or with any statement of it or none, aborts a
pending command and gives every register its reset value; a pending command otherwise stays until the sequencer completes
it.  That reset leaves the host's program, the draws and the turns to come, and without a host statement the whole host, is
the model's reading, log entry 11. -/
def Obligations.ResetAbortsPending : Prop :=
  (∀ s : State, s.turn = .reset ∨ s.turn = .hostInReset → ∃ t, step s = .next t ∧ t.pend = none ∧
      SameBlock State.reset t ∧ t.draws = s.draws ∧ t.sched = s.sched.tail ∧ t.host.prog = s.host.prog ∧
      (s.turn = .reset → t.host = s.host)) ∧
    (∀ (s t : State) (p : Pending), s.pend = some p → step s = .next t →
      t.pend = some p ∨ (s.turn = .sequencer ∧ exec p.cmd (dropTurn s) = .next t) ∨ s.turn = .reset ∨
        s.turn = .hostInReset)

/-- 70_reset_and_hazards.md section 1, R232: while rst_n = 0 a host write is dropped without recording an error and a host
read returns 0; the block takes its reset values. -/
def Obligations.AccessesDuringReset : Prop :=
  ∀ s : State, s.turn = .hostInReset →
    (∀ a d, HostWrites s a d → ∃ t, step s = .next t ∧ SameBlock State.reset t ∧ t.host.pc = s.host.pc + 1) ∧
    (∀ a n, s.host.prog[s.host.pc]? = some (.rd a n) →
      ∃ t, step s = .next t ∧ SameBlock State.reset t ∧ hostVar t n = 0)

/-- 30_encoding.md section 3, R86: a host write, of a constant or of a variable, makes the write of the window, the host at
its next statement; a host read puts the word into its variable; the host's own statements compute and branch on variables;
and none but the write changes the block.  A command the write asks for is run in the state the write leaves.  That a host
at no statement makes no access and stays there is the model's choice, log entry 7. -/
def Obligations.HostStatements : Prop :=
  ∀ s : State, s.turn = .host →
    (∀ a v t, HostWrites s a v →
      (memWrite a v (hostNext (dropTurn s)) = .settled t → step s = .next t) ∧
      (∀ i, memWrite a v (hostNext (dropTurn s)) = .run i t → step s = exec i t)) ∧
    (∀ a n, s.host.prog[s.host.pc]? = some (.rd a n) → ∃ t, step s = .next t ∧ SameBlock s t ∧
      hostVar t n = (memRead a s).1 ∧ (∀ m, m ≠ n → hostVar t m = hostVar s m) ∧ t.host.pc = s.host.pc + 1) ∧
    (∀ n v c, (c = .mov n v ∨ (∃ k, c = .addi n k ∧ v = BitVec.ofNat 32 ((hostVar s n).toNat + k.toNat)) ∨
        (∃ k, c = .andi n k ∧ v = hostVar s n &&& k) ∨ (∃ k, c = .ori n k ∧ v = hostVar s n ||| k) ∨
        (∃ k, c = .shli n k ∧ v = BitVec.ofNat 32 ((hostVar s n).toNat * 2 ^ k))) →
      s.host.prog[s.host.pc]? = some c → ∃ t, step s = .next t ∧ SameBlock s t ∧ t.draws = s.draws ∧
        hostVar t n = v ∧ (∀ m, m ≠ n → hostVar t m = hostVar s m) ∧ t.host.pc = s.host.pc + 1) ∧
    (∀ n k c, c = .bnz n k ∨ c = .bz n k → s.host.prog[s.host.pc]? = some c → ∃ t, step s = .next t ∧ SameBlock s t ∧
      t.host = { s.host with pc := if (c = .bnz n k ∧ hostVar s n ≠ 0) ∨ (c = .bz n k ∧ hostVar s n = 0)
        then k else s.host.pc + 1 }) ∧
    (s.host.prog[s.host.pc]? = some .halt ∨ s.host.prog[s.host.pc]? = none →
      ∃ t, step s = .next t ∧ SameBlock s t ∧ t.host = s.host)
end

