-- ==== Sys2Proof/Laws/State.lean ====
section
/-! SUPPORT. What each update of the state leaves in each field, so that no proof unfolds an update. -/

namespace Sys2Proof.Machine

/-! Recording an error: every field but ERR and ERRCODE. -/

@[simp] theorem raise_st (e : ErrCode) (s : State) : (raise e s).st = s.st := by
  unfold raise; split <;> rfl
@[simp] theorem raise_key (e : ErrCode) (s : State) : (raise e s).key = s.key := by
  unfold raise; split <;> rfl
@[simp] theorem raise_rk (e : ErrCode) (s : State) : (raise e s).rk = s.rk := by
  unfold raise; split <;> rfl
@[simp] theorem raise_gfA (e : ErrCode) (s : State) : (raise e s).gfA = s.gfA := by
  unfold raise; split <;> rfl
@[simp] theorem raise_gfB (e : ErrCode) (s : State) : (raise e s).gfB = s.gfB := by
  unfold raise; split <;> rfl
@[simp] theorem raise_gfY (e : ErrCode) (s : State) : (raise e s).gfY = s.gfY := by
  unfold raise; split <;> rfl
@[simp] theorem raise_keyValid (e : ErrCode) (s : State) : (raise e s).keyValid = s.keyValid := by
  unfold raise; split <;> rfl
@[simp] theorem raise_pend (e : ErrCode) (s : State) : (raise e s).pend = s.pend := by
  unfold raise; split <;> rfl
@[simp] theorem raise_draws (e : ErrCode) (s : State) : (raise e s).draws = s.draws := by
  unfold raise; split <;> rfl
@[simp] theorem raise_host (e : ErrCode) (s : State) : (raise e s).host = s.host := by
  unfold raise; split <;> rfl
@[simp] theorem raise_sched (e : ErrCode) (s : State) : (raise e s).sched = s.sched := by
  unfold raise; split <;> rfl
@[simp] theorem raise_err (e : ErrCode) (s : State) : (raise e s).err = true := by
  unfold raise; split <;> simp_all
@[simp] theorem raise_errCode (e : ErrCode) (s : State) :
    (raise e s).errCode = if s.err then s.errCode else e.code := by
  unfold raise; split <;> rfl

/-! Clearing an error. -/

@[simp] theorem clearError_st (s : State) : (clearError s).st = s.st := rfl
@[simp] theorem clearError_key (s : State) : (clearError s).key = s.key := rfl
@[simp] theorem clearError_rk (s : State) : (clearError s).rk = s.rk := rfl
@[simp] theorem clearError_gfA (s : State) : (clearError s).gfA = s.gfA := rfl
@[simp] theorem clearError_gfB (s : State) : (clearError s).gfB = s.gfB := rfl
@[simp] theorem clearError_gfY (s : State) : (clearError s).gfY = s.gfY := rfl
@[simp] theorem clearError_keyValid (s : State) : (clearError s).keyValid = s.keyValid := rfl
@[simp] theorem clearError_err (s : State) : (clearError s).err = false := rfl
@[simp] theorem clearError_errCode (s : State) : (clearError s).errCode = 0 := rfl
@[simp] theorem clearError_pend (s : State) : (clearError s).pend = s.pend := rfl
@[simp] theorem clearError_draws (s : State) : (clearError s).draws = s.draws := rfl
@[simp] theorem clearError_host (s : State) : (clearError s).host = s.host := rfl
@[simp] theorem clearError_sched (s : State) : (clearError s).sched = s.sched := rfl

/-! Accept and completion. -/

@[simp] theorem accept_st (i : Instr) (s : State) : (accept i s).st = s.st := rfl
@[simp] theorem accept_key (i : Instr) (s : State) : (accept i s).key = s.key := rfl
@[simp] theorem accept_rk (i : Instr) (s : State) : (accept i s).rk = s.rk := rfl
@[simp] theorem accept_gfA (i : Instr) (s : State) : (accept i s).gfA = s.gfA := rfl
@[simp] theorem accept_gfB (i : Instr) (s : State) : (accept i s).gfB = s.gfB := rfl
@[simp] theorem accept_gfY (i : Instr) (s : State) : (accept i s).gfY = s.gfY := rfl
@[simp] theorem accept_keyValid (i : Instr) (s : State) : (accept i s).keyValid = s.keyValid := rfl
@[simp] theorem accept_err (i : Instr) (s : State) : (accept i s).err = s.err := rfl
@[simp] theorem accept_errCode (i : Instr) (s : State) : (accept i s).errCode = s.errCode := rfl
@[simp] theorem accept_pend (i : Instr) (s : State) : (accept i s).pend = some ⟨i, .of s⟩ := rfl
@[simp] theorem accept_draws (i : Instr) (s : State) : (accept i s).draws = s.draws := rfl
@[simp] theorem accept_host (i : Instr) (s : State) : (accept i s).host = s.host := rfl
@[simp] theorem accept_sched (i : Instr) (s : State) : (accept i s).sched = s.sched := rfl
@[simp] theorem retire_st (s : State) : (retire s).st = s.st := rfl
@[simp] theorem retire_key (s : State) : (retire s).key = s.key := rfl
@[simp] theorem retire_rk (s : State) : (retire s).rk = s.rk := rfl
@[simp] theorem retire_gfA (s : State) : (retire s).gfA = s.gfA := rfl
@[simp] theorem retire_gfB (s : State) : (retire s).gfB = s.gfB := rfl
@[simp] theorem retire_gfY (s : State) : (retire s).gfY = s.gfY := rfl
@[simp] theorem retire_keyValid (s : State) : (retire s).keyValid = s.keyValid := rfl
@[simp] theorem retire_err (s : State) : (retire s).err = s.err := rfl
@[simp] theorem retire_errCode (s : State) : (retire s).errCode = s.errCode := rfl
@[simp] theorem retire_pend (s : State) : (retire s).pend = none := rfl
@[simp] theorem retire_draws (s : State) : (retire s).draws = s.draws := rfl
@[simp] theorem retire_host (s : State) : (retire s).host = s.host := rfl
@[simp] theorem retire_sched (s : State) : (retire s).sched = s.sched := rfl

/-! Reset. -/

@[simp] theorem resetBlock_st (s : State) : (resetBlock s).st = .zero := rfl
@[simp] theorem resetBlock_key (s : State) : (resetBlock s).key = .zero := rfl
@[simp] theorem resetBlock_rk (s : State) : (resetBlock s).rk = Vector.replicate 11 .zero := rfl
@[simp] theorem resetBlock_gfA (s : State) : (resetBlock s).gfA = 0 := rfl
@[simp] theorem resetBlock_gfB (s : State) : (resetBlock s).gfB = 0 := rfl
@[simp] theorem resetBlock_gfY (s : State) : (resetBlock s).gfY = 0 := rfl
@[simp] theorem resetBlock_keyValid (s : State) : (resetBlock s).keyValid = false := rfl
@[simp] theorem resetBlock_err (s : State) : (resetBlock s).err = false := rfl
@[simp] theorem resetBlock_errCode (s : State) : (resetBlock s).errCode = 0 := rfl
@[simp] theorem resetBlock_pend (s : State) : (resetBlock s).pend = none := rfl
@[simp] theorem resetBlock_draws (s : State) : (resetBlock s).draws = s.draws := rfl
@[simp] theorem resetBlock_host (s : State) : (resetBlock s).host = s.host := rfl
@[simp] theorem resetBlock_sched (s : State) : (resetBlock s).sched = s.sched := rfl

/-! The order of the steps and the host. -/

@[simp] theorem dropTurn_st (s : State) : (dropTurn s).st = s.st := rfl
@[simp] theorem dropTurn_key (s : State) : (dropTurn s).key = s.key := rfl
@[simp] theorem dropTurn_rk (s : State) : (dropTurn s).rk = s.rk := rfl
@[simp] theorem dropTurn_gfA (s : State) : (dropTurn s).gfA = s.gfA := rfl
@[simp] theorem dropTurn_gfB (s : State) : (dropTurn s).gfB = s.gfB := rfl
@[simp] theorem dropTurn_gfY (s : State) : (dropTurn s).gfY = s.gfY := rfl
@[simp] theorem dropTurn_keyValid (s : State) : (dropTurn s).keyValid = s.keyValid := rfl
@[simp] theorem dropTurn_err (s : State) : (dropTurn s).err = s.err := rfl
@[simp] theorem dropTurn_errCode (s : State) : (dropTurn s).errCode = s.errCode := rfl
@[simp] theorem dropTurn_pend (s : State) : (dropTurn s).pend = s.pend := rfl
@[simp] theorem dropTurn_draws (s : State) : (dropTurn s).draws = s.draws := rfl
@[simp] theorem dropTurn_host (s : State) : (dropTurn s).host = s.host := rfl
@[simp] theorem dropTurn_sched (s : State) : (dropTurn s).sched = s.sched.tail := rfl
@[simp] theorem hostNext_st (s : State) : (hostNext s).st = s.st := rfl
@[simp] theorem hostNext_key (s : State) : (hostNext s).key = s.key := rfl
@[simp] theorem hostNext_rk (s : State) : (hostNext s).rk = s.rk := rfl
@[simp] theorem hostNext_gfA (s : State) : (hostNext s).gfA = s.gfA := rfl
@[simp] theorem hostNext_gfB (s : State) : (hostNext s).gfB = s.gfB := rfl
@[simp] theorem hostNext_gfY (s : State) : (hostNext s).gfY = s.gfY := rfl
@[simp] theorem hostNext_keyValid (s : State) : (hostNext s).keyValid = s.keyValid := rfl
@[simp] theorem hostNext_err (s : State) : (hostNext s).err = s.err := rfl
@[simp] theorem hostNext_errCode (s : State) : (hostNext s).errCode = s.errCode := rfl
@[simp] theorem hostNext_pend (s : State) : (hostNext s).pend = s.pend := rfl
@[simp] theorem hostNext_draws (s : State) : (hostNext s).draws = s.draws := rfl
@[simp] theorem hostNext_host (s : State) : (hostNext s).host = { s.host with pc := s.host.pc + 1 } := rfl
@[simp] theorem hostNext_sched (s : State) : (hostNext s).sched = s.sched := rfl
@[simp] theorem hostGoto_st (k : Nat) (s : State) : (hostGoto k s).st = s.st := rfl
@[simp] theorem hostGoto_key (k : Nat) (s : State) : (hostGoto k s).key = s.key := rfl
@[simp] theorem hostGoto_rk (k : Nat) (s : State) : (hostGoto k s).rk = s.rk := rfl
@[simp] theorem hostGoto_gfA (k : Nat) (s : State) : (hostGoto k s).gfA = s.gfA := rfl
@[simp] theorem hostGoto_gfB (k : Nat) (s : State) : (hostGoto k s).gfB = s.gfB := rfl
@[simp] theorem hostGoto_gfY (k : Nat) (s : State) : (hostGoto k s).gfY = s.gfY := rfl
@[simp] theorem hostGoto_keyValid (k : Nat) (s : State) : (hostGoto k s).keyValid = s.keyValid := rfl
@[simp] theorem hostGoto_err (k : Nat) (s : State) : (hostGoto k s).err = s.err := rfl
@[simp] theorem hostGoto_errCode (k : Nat) (s : State) : (hostGoto k s).errCode = s.errCode := rfl
@[simp] theorem hostGoto_pend (k : Nat) (s : State) : (hostGoto k s).pend = s.pend := rfl
@[simp] theorem hostGoto_draws (k : Nat) (s : State) : (hostGoto k s).draws = s.draws := rfl
@[simp] theorem hostGoto_host (k : Nat) (s : State) : (hostGoto k s).host = { s.host with pc := k } := rfl
@[simp] theorem hostGoto_sched (k : Nat) (s : State) : (hostGoto k s).sched = s.sched := rfl
@[simp] theorem setHostVar_st (n : Nat) (v : Word) (s : State) : (setHostVar n v s).st = s.st := rfl
@[simp] theorem setHostVar_key (n : Nat) (v : Word) (s : State) : (setHostVar n v s).key = s.key := rfl
@[simp] theorem setHostVar_rk (n : Nat) (v : Word) (s : State) : (setHostVar n v s).rk = s.rk := rfl
@[simp] theorem setHostVar_gfA (n : Nat) (v : Word) (s : State) : (setHostVar n v s).gfA = s.gfA := rfl
@[simp] theorem setHostVar_gfB (n : Nat) (v : Word) (s : State) : (setHostVar n v s).gfB = s.gfB := rfl
@[simp] theorem setHostVar_gfY (n : Nat) (v : Word) (s : State) : (setHostVar n v s).gfY = s.gfY := rfl
@[simp] theorem setHostVar_keyValid (n : Nat) (v : Word) (s : State) : (setHostVar n v s).keyValid = s.keyValid := rfl
@[simp] theorem setHostVar_err (n : Nat) (v : Word) (s : State) : (setHostVar n v s).err = s.err := rfl
@[simp] theorem setHostVar_errCode (n : Nat) (v : Word) (s : State) : (setHostVar n v s).errCode = s.errCode := rfl
@[simp] theorem setHostVar_pend (n : Nat) (v : Word) (s : State) : (setHostVar n v s).pend = s.pend := rfl
@[simp] theorem setHostVar_draws (n : Nat) (v : Word) (s : State) : (setHostVar n v s).draws = s.draws := rfl
@[simp] theorem setHostVar_host (n : Nat) (v : Word) (s : State) : (setHostVar n v s).host = { s.host with vars := insertVar s.host.vars n v } := rfl
@[simp] theorem setHostVar_sched (n : Nat) (v : Word) (s : State) : (setHostVar n v s).sched = s.sched := rfl

/-! The snapshot depends on the operand registers alone. -/

@[simp] theorem snapshot_st (s : State) : (Snapshot.of s).st = s.st := rfl
@[simp] theorem snapshot_key (s : State) : (Snapshot.of s).key = s.key := rfl
@[simp] theorem snapshot_rk (s : State) : (Snapshot.of s).rk = s.rk := rfl
@[simp] theorem snapshot_gfA (s : State) : (Snapshot.of s).gfA = s.gfA := rfl
@[simp] theorem snapshot_gfB (s : State) : (Snapshot.of s).gfB = s.gfB := rfl

/-- Two states with the same operand registers have the same snapshot. -/
theorem snapshot_congr (s t : State) (h1 : t.st = s.st) (h2 : t.key = s.key) (h3 : t.rk = s.rk) (h4 : t.gfA = s.gfA)
    (h5 : t.gfB = s.gfB) : Snapshot.of t = Snapshot.of s := by
  simp [Snapshot.of, h1, h2, h3, h4, h5]

/-- BUSY is 1 exactly while a command is pending. -/
theorem busy_eq_false_iff (s : State) : s.busy = false ↔ s.pend = none := by
  simp [State.busy]

@[simp] theorem busy_of_pend_none (s : State) (h : s.pend = none) : s.busy = false := (busy_eq_false_iff s).2 h

@[simp] theorem busy_of_pend_some (s : State) (p : Pending) (h : s.pend = some p) : s.busy = true := by
  simp [State.busy, h]

end Sys2Proof.Machine
end

