-- ==== Sys2Proof/Laws/Command.lean ====
section
/-! SUPPORT. What the shared operations of a command can do: one lemma for each. -/

namespace Sys2Proof.Machine

/-- A command that is issued is rejected by its checks. -/
theorem command_reject {i : Instr} {f : Snapshot → State → State} {s : State} {e : ErrCode}
    (hp : s.pend = none) (he : issueError i s = some e) : command i f s = .next (raise e s) := by
  simp [command, hp, he]

/-- A command that is issued and passes its checks is accepted. -/
theorem command_accept {i : Instr} {f : Snapshot → State → State} {s : State}
    (hp : s.pend = none) (he : issueError i s = none) : command i f s = .next (accept i s) := by
  simp [command, hp, he]

/-- A pending command completes. -/
theorem command_complete {i : Instr} {f : Snapshot → State → State} {s : State} {x : Snapshot}
    (hp : s.pend = some ⟨i, x⟩) : command i f s = .next (retire (f x s)) := by
  simp [command, hp]

/-- A command does nothing while another one is pending but record BUSY_WRITE. -/
theorem command_busy {i : Instr} {f : Snapshot → State → State} {s : State} {p : Pending}
    (hp : s.pend = some p) (hi : p.cmd ≠ i) : command i f s = .next (raise .busyWrite s) := by
  simp [command, hp, hi]

/-- Everything a command can do: an error is recorded, it is accepted, or it completes. -/
theorem command_cases {i : Instr} {f : Snapshot → State → State} {s t : State} (h : command i f s = .next t) :
    (∃ e, t = raise e s) ∨ (s.pend = none ∧ issueError i s = none ∧ t = accept i s) ∨
      (∃ x, s.pend = some ⟨i, x⟩ ∧ t = retire (f x s)) := by
  unfold command at h
  split at h
  · rename_i hp
    split at h
    · injection h with h; exact .inl ⟨_, h.symm⟩
    · rename_i he
      injection h with h; exact .inr (.inl ⟨hp, he, h.symm⟩)
  · rename_i p hp
    split at h
    · rename_i hi
      injection h with h
      subst hi
      exact .inr (.inr ⟨p.snap, hp, h.symm⟩)
    · injection h with h; exact .inl ⟨_, h.symm⟩

/-- The issue checks pass exactly when the index is legal and the key is there. -/
theorem issueError_eq_none_iff (i : Instr) (s : State) :
    issueError i s = none ↔ i.WellFormed ∧ (needsKey i = true → s.keyValid = true) := by
  by_cases hw : i.WellFormed <;> cases hk : needsKey i <;> cases hv : s.keyValid <;> simp_all [issueError]

end Sys2Proof.Machine
end

