-- ==== Sys2Proof/Laws/Exec.lean ====
section
/-! SUPPORT. What `exec` can do, said once for all sixteen commands: the results each writes at completion, and what none of
them writes. -/

namespace Sys2Proof.Machine

/-- The results command i writes at completion, from its snapshot (R74's column "writes at completion"). -/
def effectOf (i : Instr) (x : Snapshot) (t : State) : State :=
  match i with
  | .nop => t
  | .gfadd => { t with gfY := gfadd x.gfA x.gfB }
  | .gfmul => { t with gfY := gfmul x.gfA x.gfB }
  | .xtime => { t with gfY := xtime x.gfA }
  | .shrows => { t with st := shiftRows x.st }
  | .ishrows => { t with st := invShiftRows x.st }
  | .mixcols => { t with st := mixColumns x.st }
  | .imixcols => { t with st := invMixColumns x.st }
  | .ark k => { t with st := addRoundKey x.st x.rk[k] }
  | .keyexp => { t with rk := keySchedule x.key, keyValid := true }
  | .round k => { t with st := forwardRound x.st x.rk[k] }
  | .fround => { t with st := forwardFinal x.st x.rk[10] }
  | .iround k => { t with st := inverseRound x.st x.rk[k] }
  | .ifround => { t with st := inverseFinal x.st x.rk[0] }
  | .enc => { t with st := encrypt x.rk x.st }
  | .dec => { t with st := decrypt x.rk x.st }

/-- Every meaning is the shared command with its own effect. -/
theorem exec_eq_command (i : Instr) (s : State) : exec i s = command i (effectOf i) s := by
  cases i <;> rfl

/-- No command writes KEY, GF_A or GF_B, an error, PEND (its completion does), the host, the draws or the turns. -/
theorem effectOf_frame (i : Instr) (x : Snapshot) (t : State) :
    (effectOf i x t).key = t.key ∧ (effectOf i x t).gfA = t.gfA ∧ (effectOf i x t).gfB = t.gfB ∧
      (effectOf i x t).err = t.err ∧ (effectOf i x t).errCode = t.errCode ∧ (effectOf i x t).pend = t.pend ∧
      (effectOf i x t).draws = t.draws ∧ (effectOf i x t).host = t.host ∧ (effectOf i x t).sched = t.sched := by
  cases i <;> simp [effectOf]

/-- Everything `exec` can do: an error is recorded, the command is accepted, or it completes. -/
theorem exec_cases {i : Instr} {s t : State} (h : exec i s = .next t) :
    (∃ e, t = raise e s) ∨ (s.pend = none ∧ issueError i s = none ∧ t = accept i s) ∨
      (∃ x, s.pend = some ⟨i, x⟩ ∧ t = retire (effectOf i x s)) :=
  command_cases (exec_eq_command i s ▸ h)

end Sys2Proof.Machine
end

