-- ==== Sys2Proof/Laws/Host.lean ====
section
/-! SUPPORT. The host's variables: reading what was written, and the form every write keeps. -/

namespace Sys2Proof.Machine

/-- A variable reads as what was last written to it. -/
theorem findVar_insertVar (vars : List (Nat × Word)) (n : Nat) (v : Word) :
    findVar (insertVar vars n v) n = some v := by
  induction vars with
  | nil => simp [insertVar, findVar]
  | cons p rest ih =>
    unfold insertVar
    split
    · simp [findVar]
    · split
      · simp [findVar]
      · rename_i h1 h2
        have : p.1 ≠ n := fun h => h2 h.symm
        simp [findVar, ih, this]

/-- A write to one variable leaves the others. -/
theorem findVar_insertVar_ne (vars : List (Nat × Word)) {m n : Nat} (v : Word) (h : m ≠ n) :
    findVar (insertVar vars n v) m = findVar vars m := by
  induction vars with
  | nil => simp [insertVar, findVar, Ne.symm h]
  | cons p rest ih =>
    unfold insertVar
    split
    · simp [findVar, Ne.symm h]
    · split
      · rename_i h1 h2
        subst h2
        simp [findVar, Ne.symm h]
      · simp [findVar, ih]

/-- Whether the numbers of `vars` all lie above `m`, and rise. -/
theorem varsWf_cons (m : Nat) (w : Word) (vars : List (Nat × Word)) :
    varsWf ((m, w) :: vars) = true ↔ (∀ p ∈ vars.head?, m < p.1) ∧ varsWf vars = true := by
  cases vars with
  | nil => simp [varsWf]
  | cons p rest => cases p; simp [varsWf]

/-- Every write keeps the numbers strictly rising. -/
theorem varsWf_insertVar (vars : List (Nat × Word)) (n : Nat) (v : Word) (h : varsWf vars = true) :
    varsWf (insertVar vars n v) = true := by
  induction vars with
  | nil => rfl
  | cons p rest ih =>
    obtain ⟨m, w⟩ := p
    unfold insertVar
    split
    · rename_i hn
      rw [varsWf_cons]
      exact ⟨by simpa using hn, h⟩
    · split
      · rename_i h1 h2
        subst h2
        rw [varsWf_cons] at h ⊢
        exact h
      · rename_i h1 h2
        rw [varsWf_cons] at h ⊢
        refine ⟨?_, ih h.2⟩
        have hlt : m < n := by omega
        cases rest with
        | nil => simpa [insertVar] using hlt
        | cons q rest' =>
          obtain ⟨k, x⟩ := q
          have hk : m < k := by simpa using h.1
          unfold insertVar
          split
          · simpa using hlt
          · split
            · simpa using hlt
            · simpa using hk

end Sys2Proof.Machine
end

