-- ==== Sys2Proof/Laws/Matrix.lean ====
section
/-! SUPPORT. The small lemmas of columns, states and blocks: reading what `ofFn` made, and equality byte by byte. -/

namespace Sys2Proof

@[simp] theorem Column.get_ofFn (f : Fin 4 → Byte) (r : Fin 4) : (Column.ofFn f).get r = f r := by
  fin_cases r <;> rfl

@[simp] theorem Mat.col_ofCols (f : Fin 4 → Column) (c : Fin 4) : (Mat.ofCols f).col c = f c := by
  fin_cases c <;> rfl

@[simp] theorem Mat.get_ofFn (f : Fin 4 → Fin 4 → Byte) (r c : Fin 4) : (Mat.ofFn f).get r c = f r c := by
  simp [Mat.ofFn, Mat.get]

/-- Columns are equal when their bytes are. -/
theorem Column.ext_get {a b : Column} (h : ∀ r, a.get r = b.get r) : a = b := by
  cases a; cases b
  have h0 := h 0; have h1 := h 1; have h2 := h 2; have h3 := h 3
  simp_all [Column.get]

/-- States are equal when their bytes are. -/
theorem Mat.ext_get {S T : Mat} (h : ∀ r c, S.get r c = T.get r c) : S = T := by
  have hc (c : Fin 4) : S.col c = T.col c := Column.ext_get fun r => h r c
  have h0 := hc 0; have h1 := hc 1; have h2 := hc 2; have h3 := hc 3
  cases S; cases T
  simp_all [Mat.col]

@[simp] theorem Mat.col_setCol (S : Mat) (c : Fin 4) (a : Column) : (S.setCol c a).col c = a := by
  fin_cases c <;> rfl

/-- Replacing one column leaves the others. -/
theorem Mat.col_setCol_ne (S : Mat) {c d : Fin 4} (a : Column) (h : d ≠ c) : (S.setCol c a).col d = S.col d := by
  fin_cases c <;> fin_cases d <;> first | rfl | exact absurd rfl h

@[simp] theorem shiftRows_get (S : Mat) (r c : Fin 4) : (shiftRows S).get r c = S.get r (c + r) := by
  simp [shiftRows]

@[simp] theorem invShiftRows_get (S : Mat) (r c : Fin 4) : (invShiftRows S).get r c = S.get r (c - r) := by
  simp [invShiftRows]

@[simp] theorem addRoundKey_get (S K : Mat) (r c : Fin 4) :
    (addRoundKey S K).get r c = S.get r c ^^^ K.get r c := by
  simp [addRoundKey, gfadd]

@[simp] theorem mixColumns_col (S : Mat) (c : Fin 4) : (mixColumns S).col c = mixCol (S.col c) := by
  simp [mixColumns]

@[simp] theorem invMixColumns_col (S : Mat) (c : Fin 4) : (invMixColumns S).col c = invMixCol (S.col c) := by
  simp [invMixColumns]

end Sys2Proof
end

