-- ==== Sys2Proof/Laws/Lanes.lean ====
section
/-! SUPPORT. Byte lanes: a word made of four bytes gives them back lane by lane, and a column read from a word makes it
again (20_memory.md R48, R49). -/

namespace Sys2Proof

/-- Lane k of the word made of a column is the column's byte k. -/
@[simp] theorem laneOf_toWord (a : Column) (k : Fin 4) : laneOf a.toWord k = a.get k := by
  apply BitVec.eq_of_getLsbD_eq
  intro n hn
  have e1 : 8 * 1 + n - 8 = n := by omega
  have e2 : 8 * 2 + n - 8 - 8 = n := by omega
  have e3 : 8 * 3 + n - 8 - 8 - 8 = n := by omega
  fin_cases k <;>
    simp only [laneOf, Column.toWord, Column.get, BitVec.getLsbD_extractLsb', BitVec.getLsbD_append] <;>
    split_ifs <;> first | omega | simp [hn, e1, e2, e3]

/-- A column read from the word it made. -/
@[simp] theorem ofWord_toWord (a : Column) : Column.ofWord a.toWord = a :=
  Column.ext_get fun r => by simp [Column.ofWord]

/-- The word made of its own lanes. -/
@[simp] theorem toWord_ofWord (v : Word) : (Column.ofWord v).toWord = v := by
  apply BitVec.eq_of_getLsbD_eq
  intro n hn
  simp only [Column.ofWord, Column.ofFn, Column.toWord, laneOf, BitVec.getLsbD_extractLsb', BitVec.getLsbD_append]
  split_ifs with h0 h1 h2
  · simp [h0]
  · rw [show 8 * (1 : Fin 4).val + (n - 8) = n by simp; omega]
    simp [h1]
  · rw [show 8 * (2 : Fin 4).val + (n - 8 - 8) = n by simp; omega]
    simp [h2]
  · have h3 : n - 8 - 8 - 8 < 8 := by omega
    rw [show 8 * (3 : Fin 4).val + (n - 8 - 8 - 8) = n by simp; omega]
    simp [h3]

end Sys2Proof
end

