-- ==== Sys2Proof/Laws/PerInstr.lean ====
section
/-! SUPPORT. Statements about every command as syntax, one lemma for each constructor. -/

namespace Sys2Proof.Laws.EncodeFields

/-- R71, R85: the fields of a command's word are its opcode, its index and reserved zeros. -/
def Statement (i : Instr) : Prop :=
  opcField (encode i) = i.opc ∧ ridxField (encode i) = i.ridx ∧ rsvField (encode i) = 0

/-- The word made of an opcode and an index has these fields. -/
theorem fields (o : BitVec 8) (k : BitVec 4) :
    opcField ((k ++ o).setWidth 32) = o ∧ ridxField ((k ++ o).setWidth 32) = k ∧
      rsvField ((k ++ o).setWidth 32) = 0 := by
  refine ⟨?_, ?_, ?_⟩
  · ext n hn
    have h1 : n < 32 := by omega
    simp only [opcField, BitVec.getElem_extractLsb', BitVec.getLsbD_setWidth, BitVec.getLsbD_append]
    simp [hn, h1]
  · ext n hn
    have h1 : 8 + n < 32 := by omega
    simp only [ridxField, BitVec.getElem_extractLsb', BitVec.getLsbD_setWidth, BitVec.getLsbD_append]
    simp [hn, h1]
  · ext n hn
    have h1 : ¬ 12 + n < 8 := by omega
    have h2 : 4 ≤ 12 + n - 8 := by omega
    simp only [rsvField, BitVec.getElem_extractLsb', BitVec.getLsbD_setWidth, BitVec.getLsbD_append]
    simp [h1, BitVec.getLsbD_of_ge k _ h2]

theorem nop : Statement .nop := fields _ _
theorem gfadd : Statement .gfadd := fields _ _
theorem gfmul : Statement .gfmul := fields _ _
theorem xtime : Statement .xtime := fields _ _
theorem shrows : Statement .shrows := fields _ _
theorem ishrows : Statement .ishrows := fields _ _
theorem mixcols : Statement .mixcols := fields _ _
theorem imixcols : Statement .imixcols := fields _ _
theorem ark (ridx : Fin 11) : Statement (.ark ridx) := fields _ _
theorem keyexp : Statement .keyexp := fields _ _
theorem round (ridx : Fin 11) : Statement (.round ridx) := fields _ _
theorem fround : Statement .fround := fields _ _
theorem iround (ridx : Fin 11) : Statement (.iround ridx) := fields _ _
theorem ifround : Statement .ifround := fields _ _
theorem enc : Statement .enc := fields _ _
theorem dec : Statement .dec := fields _ _

end Sys2Proof.Laws.EncodeFields
end

