-- ==== Sys2Proof/Laws/Window.lean ====
section
/-! SUPPORT. What a host read and a host write can do. -/

namespace Sys2Proof.Machine

/-- R51: the word addresses 0 to 3 are STATE0..3. -/
theorem regAt_of_state {a : WordAddr} (h : a.toNat < 4) : regAt a = .state ⟨a.toNat, h⟩ := by
  simp [regAt, h]

/-- R51: the word addresses 4 to 7 are KEY0..3. -/
theorem regAt_of_key {a : WordAddr} (h1 : 4 ≤ a.toNat) (h2 : a.toNat < 8) :
    regAt a = .key ⟨a.toNat - 4, by omega⟩ := by
  have h : ¬ a.toNat < 4 := by omega
  simp [regAt, h, h2]

/-- R51: the word addresses 64 to 107 are the RK words. -/
theorem regAt_of_rk {a : WordAddr} (h1 : 64 ≤ a.toNat) (h2 : a.toNat < 108) :
    regAt a = .rk ⟨(a.toNat - 64) / 4, by omega⟩ ⟨(a.toNat - 64) % 4, by omega⟩ := by
  unfold regAt
  simp only [dif_pos (And.intro h1 h2)]
  rw [dif_neg (by omega), dif_neg (by omega), if_neg (by omega), if_neg (by omega), if_neg (by omega), if_neg (by omega),
    if_neg (by omega)]

/-- R51: the remaining word addresses from 14 on, and 11, are reserved. -/
theorem regAt_of_reserved {a : WordAddr} (h : a.toNat = 11 ∨ 14 ≤ a.toNat ∧ a.toNat < 64 ∨ 108 ≤ a.toNat) :
    regAt a = .reserved := by
  unfold regAt
  simp only
  rw [dif_neg (by omega), dif_neg (by omega), if_neg (by omega), if_neg (by omega), if_neg (by omega), if_neg (by omega),
    if_neg (by omega), dif_neg (by omega)]

/-- The address map gives each named register back at the byte address R51 gives it. -/
theorem regAt_addrOf (r : WindowReg) (h : r ≠ .reserved) : regAt (addrOf r) = r := by
  cases r with
  | state c => revert c; decide
  | key w => revert w; decide
  | rk j c => revert j c; decide
  | reserved => exact absurd rfl h
  | gfA => decide
  | gfB => decide
  | gfY => decide
  | cmd => decide
  | status => decide

/-- A read of a result register changes no field but the count of draws. -/
theorem readResult_snd (v : Word) (s : State) :
    (readResult v s).2 = if s.busy then { s with draws := s.draws + 1 } else s := by
  unfold readResult; split <;> rfl

/-- R55: a read leaves every register of the block as it was. -/
theorem memRead_snd (a : WordAddr) (s : State) :
    (memRead a s).2 = s ∨ s.busy = true ∧ (memRead a s).2 = { s with draws := s.draws + 1 } := by
  unfold memRead
  split <;> simp only [readResult_snd] <;> cases s.busy <;> simp

/-- R51: STATUS has one word address. -/
theorem regAt_eq_status_iff (a : WordAddr) : regAt a = .status ↔ a = wordAddr 0x034 := by
  revert a; decide

/-- Everything a host write can do, and to which register: an error is recorded, an error is cleared or kept, a data register
of an idle block is replaced, or a command word that decodes is handed over to be run. -/
theorem memWrite_cases (a : WordAddr) (v : Word) (s : State) :
    (∃ e, memWrite a v s = .settled (raise e s)) ∨
    (regAt a = .status ∧ memWrite a v s = .settled (if clearBit v then clearError s else s)) ∨
    (s.pend = none ∧
      ((∃ c, regAt a = .state c ∧ memWrite a v s = .settled { s with st := s.st.setCol c (.ofWord v) }) ∨
       (∃ w, regAt a = .key w ∧ memWrite a v s = .settled { s with key := setKeyWord s.key w v, keyValid := false }) ∨
       (regAt a = .gfA ∧ memWrite a v s = .settled { s with gfA := v.setWidth 8 }) ∨
       (regAt a = .gfB ∧ memWrite a v s = .settled { s with gfB := v.setWidth 8 }) ∨
       (∃ i, regAt a = .cmd ∧ decode v = .ok i ∧ memWrite a v s = .run i s))) := by
  cases hb : s.busy
  · have hp : s.pend = none := (busy_eq_false_iff s).1 hb
    have hu (x : Action) : unlessBusy s x = x := by simp [unlessBusy, hb]
    unfold memWrite
    split
    · exact .inl ⟨_, rfl⟩
    · exact .inl ⟨_, rfl⟩
    · exact .inl ⟨_, rfl⟩
    · exact .inr (.inl ⟨‹_›, rfl⟩)
    · exact .inr (.inr ⟨hp, .inl ⟨_, ‹_›, hu _⟩⟩)
    · exact .inr (.inr ⟨hp, .inr (.inl ⟨_, ‹_›, hu _⟩)⟩)
    · exact .inr (.inr ⟨hp, .inr (.inr (.inl ⟨‹_›, hu _⟩))⟩)
    · exact .inr (.inr ⟨hp, .inr (.inr (.inr (.inl ⟨‹_›, hu _⟩)))⟩)
    · rw [hu]
      unfold issue
      split
      · exact .inl ⟨_, rfl⟩
      · rename_i i hi
        exact .inr (.inr ⟨hp, .inr (.inr (.inr (.inr ⟨i, ‹_›, hi, rfl⟩)))⟩)
  · have hu (x : Action) : unlessBusy s x = .settled (raise .busyWrite s) := by simp [unlessBusy, hb]
    unfold memWrite
    split
    · exact .inl ⟨_, rfl⟩
    · exact .inl ⟨_, rfl⟩
    · exact .inl ⟨_, rfl⟩
    · exact .inr (.inl ⟨‹_›, rfl⟩)
    all_goals exact .inl ⟨_, hu _⟩

end Sys2Proof.Machine
end

