-- ==== Sys2Proof/Laws/Step.lean ====
section
/-! SUPPORT. What a step can do: by whose turn it is, and runs of several steps. -/

namespace Sys2Proof.Machine

/-- Past the end of the schedule the sequencer moves while a command is pending, else the host. -/
theorem turn_of_sched_nil {s : State} (h : s.sched = []) :
    s.turn = if s.pend = none then .host else .sequencer := by
  cases hp : s.pend <;> simp [State.turn, h, State.busy, hp]

/-- The sequencer's step with a command pending is `exec` of that command. -/
theorem step_sequencer {s : State} {p : Pending} (ht : s.turn = .sequencer) (hp : s.pend = some p) :
    step s = exec p.cmd (dropTurn s) := by
  simp [step, fetch, ht, sequencerMove, hp]

/-- The sequencer's step with none pending leaves all but the turn. -/
theorem step_sequencer_none {s : State} (ht : s.turn = .sequencer) (hp : s.pend = none) :
    step s = .next (dropTurn s) := by
  simp [step, fetch, ht, sequencerMove, hp]

/-- A reset edge. -/
theorem step_reset {s : State} (ht : s.turn = .reset) : step s = .next (resetBlock (dropTurn s)) := by
  simp [step, fetch, ht]

/-- The host's step, with rst_n = 1, when its move asks for no command. -/
theorem step_host_settled {s t : State} (ht : s.turn = .host) (hm : hostMove true (dropTurn s) = .settled t) :
    step s = .next t := by
  simp [step, fetch, ht, hm]

/-- The host's step, with rst_n = 1, when its move asks for a command. -/
theorem step_host_run {s t : State} {i : Instr} (ht : s.turn = .host) (hm : hostMove true (dropTurn s) = .run i t) :
    step s = exec i t := by
  simp [step, fetch, ht, hm]

/-- Everything the host's move can do with rst_n = 0: no command is asked for, and only the host's place and variables
change. -/
theorem hostMove_dead (s : State) :
    ∃ t, hostMove false s = .settled t ∧ t = { s with host := { s.host with pc := t.host.pc, vars := t.host.vars } } := by
  unfold hostMove
  split
  · exact ⟨s, rfl, rfl⟩
  · rename_i c _
    cases c <;> refine ⟨_, rfl, ?_⟩ <;> first | rfl | (split <;> rfl)

/-- The host's step, with rst_n = 0: the block is reset, and the host goes on as it would beside it. -/
theorem step_hostInReset {s : State} (ht : s.turn = .hostInReset) :
    ∃ t, hostMove false (resetBlock (dropTurn s)) = .settled t ∧ step s = .next t ∧
      t = { resetBlock (dropTurn s) with host := { s.host with pc := t.host.pc, vars := t.host.vars } } := by
  obtain ⟨t, h, he⟩ := hostMove_dead (resetBlock (dropTurn s))
  exact ⟨t, h, by simp [step, fetch, ht, h], he⟩

/-- The host's move when its next statement is c. -/
theorem hostMove_stmt {live : Bool} {s : State} {c : HostStmt} (h : s.host.prog[s.host.pc]? = some c) :
    hostMove live s = hostStmt live c s := by
  simp [hostMove, h]

/-- Everything the host's move can do with rst_n = 1: its next statement is a write, made with the host at the statement
after it, or nothing changes but the host's place and variables and the count of draws. -/
theorem hostMove_live (s : State) :
    (∃ a v, (s.host.prog[s.host.pc]? = some (.wr a v) ∨
        ∃ n, s.host.prog[s.host.pc]? = some (.wrv a n) ∧ v = hostVar s n) ∧
      hostMove true s = memWrite a v (hostNext s)) ∨
    ∃ t, hostMove true s = .settled t ∧
      t = { s with draws := t.draws, host := { s.host with pc := t.host.pc, vars := t.host.vars } } := by
  cases h : s.host.prog[s.host.pc]? with
  | none => exact .inr ⟨s, by simp [hostMove, h], rfl⟩
  | some c =>
    rw [hostMove_stmt h]
    cases c with
    | wr a v => exact .inl ⟨a, v, .inl rfl, rfl⟩
    | wrv a n => exact .inl ⟨a, _, .inr ⟨n, rfl, rfl⟩, rfl⟩
    | rd a n =>
      refine .inr ⟨_, rfl, ?_⟩
      obtain hr | ⟨-, hr⟩ := memRead_snd a s <;> simp [portRead, hr, setHostVar, hostNext, hostGoto]
    | _ => exact .inr ⟨_, rfl, by first | rfl | (split <;> rfl)⟩

/-- A run of no steps. -/
theorem run_zero (s : State) : Host.Core.run Sys2Proof.core 0 s = .next s := rfl

/-- A run's first step, when it answers a next state. -/
theorem run_succ {s t : State} (n : Nat) (h : step s = .next t) :
    Host.Core.run Sys2Proof.core (n + 1) s = Host.Core.run Sys2Proof.core n t := by
  have h' : Sys2Proof.core.step s = .next t := h
  simp [Host.Core.run, h']

end Sys2Proof.Machine
end

