-- ==== Sys2Proof/Tests/Slice0.lean ====
section
/-! SUPPORT. Tests whose expected results come from the spec (95_test_vectors.md and the worked examples of the rules), and a
witness for the hypotheses of each statement. -/

namespace Sys2Proof.Tests

open Sys2Proof Sys2Proof.Machine

/-! ## Helpers -/

/-- K_ex, the source's example key. -/
def kEx : Block :=
  #v[0xC3, 0x2C, 0x5C, 0xA6, 0xB5, 0x80, 0x5E, 0x0C, 0xDB, 0x8D, 0xA5, 0x7A, 0x2A, 0xB6, 0xFE, 0x5C]

/-- P_m, the block 00 01 02 … 0F. -/
def pM : Block := #v[0, 1, 2, 3, 4, 5, 6, 7, 8, 9, 10, 11, 12, 13, 14, 15]

/-- An idle block with the example key expanded and ST = load(blk). -/
def keyed (blk : Block) : State :=
  { State.reset with key := kEx, rk := keySchedule kEx, keyValid := true, st := load blk }

/-- The field operands a and b. -/
def operands (a b : Byte) : State := { State.reset with gfA := a, gfB := b }

/-- The state in which command i was accepted from `keyed pM`. -/
def pendingOf (i : Instr) : State := accept i (keyed pM)

/-- The host about to perform statement c, on its own turn. -/
def hostDoes (c : HostStmt) (s : State) : State := { s with host := ⟨[c], 0, []⟩, sched := [.host] }

/-- An observation of the next state, if there is one. -/
def after {α : Type} (o : Host.Outcome State Fault Refusal) (f : State → α) : Option α :=
  match o with
  | .next t => some (f t)
  | .fault _ => none
  | .refused _ => none

/-- The block in ST after command i, issued and waited for. -/
def blockAfter (i : Instr) (s : State) : Option Block := after (issueAndWait i s) fun t => store t.st

/-- STATUS after the host has written v to the word at byte address a. -/
def statusAfterWrite (a : Nat) (v : Word) (s : State) : Option Word :=
  after (step (hostDoes (.wr (wordAddr a) v) s)) statusWord

/-! ## Well-formedness: a term each check refuses (R73) -/

theorem test_wf_round_below : ¬ (Instr.round 0).WellFormed := by decide
theorem test_wf_round_above : ¬ (Instr.round 10).WellFormed := by decide
theorem test_wf_iround_below : ¬ (Instr.iround 0).WellFormed := by decide
theorem test_wf_iround_above : ¬ (Instr.iround 10).WellFormed := by decide
theorem test_wf_round_inside : (Instr.round 1).WellFormed ∧ (Instr.iround 9).WellFormed := by decide

/-! ## Decoding: words written out field by field, RSV ++ RIDX ++ OPC (R71, R74) -/

theorem test_decode_nop : decode (0#20 ++ 0b0000#4 ++ 0b00000000#8) = .ok .nop := rfl
theorem test_decode_gfadd : decode (0#20 ++ 0b0000#4 ++ 0b00000001#8) = .ok .gfadd := rfl
theorem test_decode_gfmul : decode (0#20 ++ 0b0000#4 ++ 0b00000010#8) = .ok .gfmul := rfl
theorem test_decode_xtime : decode (0#20 ++ 0b0000#4 ++ 0b00000011#8) = .ok .xtime := rfl
theorem test_decode_shrows : decode (0#20 ++ 0b0000#4 ++ 0b00010000#8) = .ok .shrows := rfl
theorem test_decode_ishrows : decode (0#20 ++ 0b0000#4 ++ 0b00010001#8) = .ok .ishrows := rfl
theorem test_decode_mixcols : decode (0#20 ++ 0b0000#4 ++ 0b00010010#8) = .ok .mixcols := rfl
theorem test_decode_imixcols : decode (0#20 ++ 0b0000#4 ++ 0b00010011#8) = .ok .imixcols := rfl
theorem test_decode_ark : decode (0#20 ++ 0b1010#4 ++ 0b00010100#8) = .ok (.ark 10) := rfl
theorem test_decode_keyexp : decode (0#20 ++ 0b0000#4 ++ 0b00100000#8) = .ok .keyexp := rfl
theorem test_decode_round : decode (0#20 ++ 0b0101#4 ++ 0b00110000#8) = .ok (.round 5) := rfl
theorem test_decode_fround : decode (0#20 ++ 0b0000#4 ++ 0b00110001#8) = .ok .fround := rfl
theorem test_decode_iround : decode (0#20 ++ 0b1001#4 ++ 0b00110010#8) = .ok (.iround 9) := rfl
theorem test_decode_ifround : decode (0#20 ++ 0b0000#4 ++ 0b00110011#8) = .ok .ifround := rfl
theorem test_decode_enc : decode (0#20 ++ 0b0000#4 ++ 0b01000000#8) = .ok .enc := rfl
theorem test_decode_dec : decode (0#20 ++ 0b0000#4 ++ 0b01000001#8) = .ok .dec := rfl

/-- 95 section 2.9: OPC is checked before RSV, RSV before RIDX. -/
theorem test_decode_priority :
    decode 0xFFFFFFFF = .error .illegalOpcode ∧ decode 0x00001014 = .error .reservedField ∧
      decode 0x00000F32 = .error .badRidx ∧ decode 0x00000133 = .error .reservedField := ⟨rfl, rfl, rfl, rfl⟩

theorem test_encode_iround_9 : encode (.iround 9) = 0x00000932 := by decide
theorem test_table_word : decodeTableWord 32 0x00000A14 = some (.ark 10) := by decide

/-! ## The commands, on the spec's vectors -/

/-- V-F1 row 3: 0x57 + 0x83. -/
theorem test_gfadd : after (issueAndWait .gfadd (operands 0x57 0x83)) (·.gfY) = some 0xD4 := by decide
/-- V-F1 row 3. -/
theorem test_gfmul : after (issueAndWait .gfmul (operands 0x57 0x83)) (·.gfY) = some 0xC1 := by decide
/-- V-F1: the largest operands. -/
theorem test_gfmul_ff : after (issueAndWait .gfmul (operands 0xFF 0xFF)) (·.gfY) = some 0x13 := by decide
/-- V-F3: the smallest operand that reduces; GF_B is not read. -/
theorem test_xtime : after (issueAndWait .xtime (operands 0x80 0xFF)) (·.gfY) = some 0x1B := by decide
/-- V-F3. -/
theorem test_xtime_ff : after (issueAndWait .xtime (operands 0xFF 0x00)) (·.gfY) = some 0xE5 := by decide
/-- R101, 0x57 · 0x13 by the reference definition (V-F1). -/
theorem test_gfmulRef : gfmulRef 0x57 0x13 = 0xFE := by decide
/-- V-S1. -/
theorem test_shrows : blockAfter .shrows (keyed pM) =
    some #v[0x00, 0x05, 0x0A, 0x0F, 0x04, 0x09, 0x0E, 0x03, 0x08, 0x0D, 0x02, 0x07, 0x0C, 0x01, 0x06, 0x0B] := by
  decide +kernel
/-- V-S1. -/
theorem test_ishrows : blockAfter .ishrows (keyed pM) =
    some #v[0x00, 0x0D, 0x0A, 0x07, 0x04, 0x01, 0x0E, 0x0B, 0x08, 0x05, 0x02, 0x0F, 0x0C, 0x09, 0x06, 0x03] := by
  decide +kernel
/-- V-M1. -/
theorem test_mixCol : mixCol ⟨0xDB, 0x13, 0x53, 0x45⟩ = ⟨0x8E, 0x4D, 0xA1, 0xBC⟩ := by decide +kernel
/-- V-M2. -/
theorem test_mixcols : blockAfter .mixcols (keyed pM) =
    some #v[0x02, 0x07, 0x00, 0x05, 0x06, 0x03, 0x04, 0x01, 0x0A, 0x0F, 0x08, 0x0D, 0x0E, 0x0B, 0x0C, 0x09] := by
  decide +kernel
/-- V-M1: column 0 of Minv. -/
theorem test_invMixCol : invMixCol ⟨0x01, 0x00, 0x00, 0x00⟩ = ⟨0x0E, 0x09, 0x0D, 0x0B⟩ := by decide +kernel
/-- V-M2. -/
theorem test_imixcols : blockAfter .imixcols (keyed pM) =
    some #v[0x0A, 0x0F, 0x08, 0x0D, 0x0E, 0x0B, 0x0C, 0x09, 0x02, 0x07, 0x00, 0x05, 0x06, 0x03, 0x04, 0x01] := by
  decide +kernel
/-- Section 2.5, ARK 1. -/
theorem test_ark : blockAfter (.ark 1) (keyed pM) =
    some #v[0x74, 0xD3, 0x02, 0x8F, 0xC5, 0x57, 0x58, 0x87, 0x12, 0xD6, 0xF1, 0xF1, 0x3C, 0x64, 0x0B, 0xA9] := by
  decide +kernel
/-- V-K3, the last round key. -/
theorem test_keyexp : after (issueAndWait .keyexp { State.reset with key := kEx }) (fun t => store t.rk[10]) =
    some #v[0x77, 0x50, 0xAD, 0x57, 0x90, 0xF8, 0x74, 0xB0, 0x40, 0xA9, 0x34, 0xA4, 0x8D, 0x83, 0x1B, 0x00] := by
  decide +kernel
/-- V-K2: the zero key, round key 2 and KEYVALID. -/
theorem test_keyexp_zero : after (issueAndWait .keyexp State.reset) (fun t => (store t.rk[2], t.keyValid)) =
    some (#v[0x03, 0x00, 0x00, 0x01, 0x02, 0x00, 0x00, 0x01, 0x03, 0x00, 0x00, 0x01, 0x02, 0x00, 0x00, 0x01], true) := by
  decide +kernel
/-- V-R3, ROUND 5. -/
theorem test_round : blockAfter (.round 5) (keyed pM) =
    some #v[0x8A, 0xDD, 0x8E, 0x80, 0x75, 0x7F, 0xB0, 0x66, 0xB0, 0xDB, 0xBB, 0x3A, 0xBB, 0x4A, 0x83, 0xBC] := by
  decide +kernel
/-- V-R3, FROUND. -/
theorem test_fround : blockAfter .fround (keyed pM) =
    some #v[0x77, 0x55, 0xA7, 0x58, 0x94, 0xF1, 0x7A, 0xB3, 0x48, 0xA4, 0x36, 0xA3, 0x81, 0x82, 0x1D, 0x0B] := by
  decide +kernel
/-- V-R2, IROUND 9. -/
theorem test_iround : blockAfter (.iround 9) (keyed
      #v[0x2F, 0x0F, 0x40, 0xBA, 0xC4, 0xFC, 0x04, 0x5D, 0x69, 0xCC, 0x34, 0xF7, 0xA6, 0x1B, 0x76, 0xEF]) =
    some #v[0xAB, 0x3C, 0x7D, 0x30, 0xCE, 0xA5, 0x34, 0x64, 0x95, 0x79, 0xE9, 0xEA, 0x7E, 0xA5, 0x55, 0x36] := by
  decide +kernel
/-- V-R3, IFROUND. -/
theorem test_ifround : blockAfter .ifround (keyed pM) =
    some #v[0xC3, 0x21, 0x56, 0xA1, 0xB1, 0x81, 0x50, 0x07, 0xD3, 0x88, 0xA7, 0x75, 0x26, 0xBF, 0xF8, 0x5F] := by
  decide +kernel
/-- V-R1: C_ex. -/
theorem test_enc : blockAfter .enc (keyed .zero) =
    some #v[0x58, 0x5F, 0xED, 0xED, 0x54, 0x04, 0x70, 0xED, 0x29, 0x65, 0x00, 0x53, 0x2B, 0x98, 0x6D, 0xEF] := by
  decide +kernel
/-- V-R5 row 1. -/
theorem test_dec : blockAfter .dec (keyed
      #v[0x52, 0x58, 0xE5, 0xE8, 0x4A, 0x17, 0x6C, 0xFC, 0x2B, 0x6A, 0x00, 0x5E, 0x3D, 0x83, 0x79, 0xF6]) =
    some pM := by
  decide +kernel
/-- Section 2.8: NOP changes nothing, an error it finds included. -/
theorem test_nop : after (issueAndWait .nop { State.reset with err := true, errCode := 4 }) statusWord = some 0x44 := by
  decide

/-! ## Host accesses and errors (95 section 2.10) -/

theorem test_enc_without_key : statusAfterWrite 0x030 0x00000040 .reset = some 0x00000044 := by decide +kernel
theorem test_bad_index_before_key : statusAfterWrite 0x030 0x00000B14 .reset = some 0x00000034 := by decide +kernel
theorem test_write_gfY : statusAfterWrite 0x028 0x00000001 .reset = some 0x00000064 := by decide +kernel
theorem test_keyexp_accepted : statusAfterWrite 0x030 0x00000020 .reset = some 0x00000001 := by decide +kernel
theorem test_write_while_busy : statusAfterWrite 0x000 0 (accept .keyexp .reset) = some 0x00000055 := by decide +kernel
theorem test_bad_write_while_busy : statusAfterWrite 0x104 0 (accept .keyexp .reset) = some 0x00000065 := by
  decide +kernel
theorem test_first_error_kept :
    statusAfterWrite 0x030 0x000000FF (raise .noKey .reset) = some 0x00000044 := by decide +kernel
theorem test_clear_needs_bit_2 : statusAfterWrite 0x034 0x000000FB (raise .noKey .reset) = some 0x00000044 := by
  decide +kernel
theorem test_clear : statusAfterWrite 0x034 0x00000004 (raise .noKey .reset) = some 0 := by decide +kernel
/-- V-K5: a KEY write clears KEYVALID and keeps the old schedule readable. -/
theorem test_key_write : after (step (hostDoes (.wr (wordAddr 0x010) 0) (keyed pM)))
    (fun t => (statusWord t, (memRead (wordAddr 0x100) t).1)) = some (0, 0xA65C2CC3) := by decide +kernel
/-- R49's example. -/
theorem test_state_word : (memRead (wordAddr 0x004) (keyed pM)).1 = 0x07060504 := by decide +kernel
/-- V-F4: bits above 7 are ignored. -/
theorem test_gfA_byte : after (step (hostDoes (.wr (wordAddr 0x020) 0x157) .reset)) (·.gfA) = some 0x57 := by
  decide +kernel
/-- The command word is fetched and run: a KEYEXP right after reset is accepted. -/
theorem test_withFetchWord :
    after (step (State.reset.withFetchWord 32 0x20)) (fun t => t.pend.map (·.cmd)) = some (some .keyexp) := by
  decide +kernel
/-- R92: with nothing else scheduled the sequencer then completes it. -/
theorem test_completion : after (andThen (step (State.reset.withFetchWord 32 0x20)) step) statusWord = some 2 := by
  decide +kernel
/-- R232: an access while rst_n = 0 is dropped without an error. -/
theorem test_access_in_reset :
    after (step { hostDoes (.wr (wordAddr 0x028) 1) .reset with sched := [.hostInReset] }) statusWord = some 0 := by
  decide +kernel

/-! ## Witnesses: the hypotheses of the statements can be met -/

theorem witness_wellFormed : (Instr.ark 10).WellFormed ∧ (Instr.round 9).WellFormed ∧ Instr.enc.WellFormed := by decide
theorem witness_EncodeOfDecode : decode 0x00000932 = .ok (.iround 9) := rfl
theorem witness_RejectedWords_illegal : State.reset.pend = none ∧ IllegalOpc ((0x00000042 : Word).toNat % 256) := by
  decide
theorem witness_RejectedWords_reserved :
    ¬ IllegalOpc ((0x80000041 : Word).toNat % 256) ∧ (0x80000041 : Word).toNat / 4096 ≠ 0 := by decide
theorem witness_RejectedWords_unused :
    ¬ IllegalOpc ((0x00000A31 : Word).toNat % 256) ∧ (0x00000A31 : Word).toNat % 256 ≠ 0x14 ∧
      (0x00000A31 : Word).toNat % 256 ≠ 0x30 ∧ (0x00000A31 : Word).toNat % 256 ≠ 0x32 ∧
      (0x00000A31 : Word).toNat / 4096 = 0 ∧ (0x00000A31 : Word).toNat / 256 ≠ 0 := by decide
theorem witness_RejectedWords_ark : (0x00000B14 : Word).toNat % 256 = 0x14 ∧ (0x00000B14 : Word).toNat / 4096 = 0 ∧
    10 < (0x00000B14 : Word).toNat / 256 := by decide
theorem witness_RejectedWords_round : (0x00000A30 : Word).toNat % 256 = 0x30 ∧ (0x00000A30 : Word).toNat / 4096 = 0 ∧
    9 < (0x00000A30 : Word).toNat / 256 ∧ (0x00000032 : Word).toNat / 256 = 0 := by decide
theorem witness_StepRunsIssuedCommand :
    (hostDoes (.wr (wordAddr 0x030) 0x40) (keyed pM)).turn = .host ∧
      (hostDoes (.wr (wordAddr 0x030) 0x40) (keyed pM)).pend = none ∧
      HostWrites (hostDoes (.wr (wordAddr 0x030) 0x40) (keyed pM)) (wordAddr 0x030) 0x40 ∧ decode 0x40 = .ok .enc :=
  ⟨rfl, rfl, .inl rfl, rfl⟩
/-- The same through a variable. -/
theorem witness_StepRunsIssuedCommand_var :
    HostWrites (hostDoes (.wrv (wordAddr 0x030) 3) (keyed pM)) (wordAddr 0x030)
      (hostVar (hostDoes (.wrv (wordAddr 0x030) 3) (keyed pM)) 3) := .inr ⟨3, rfl, rfl⟩
theorem witness_pending (i : Instr) :
    (pendingOf i).turn = .sequencer ∧ (pendingOf i).pend = some ⟨i, Snapshot.of (keyed pM)⟩ := ⟨rfl, rfl⟩
theorem witness_FieldLaws_inverse : (0x53 : Byte) ≠ 0 := by decide
theorem witness_RowRotationProperties : (load pM).get 1 0 ≠ (load pM).get 1 (0 + 2) := by decide
theorem witness_ColumnMixProperties : (Mat.zero.setCol 2 ⟨7, 7, 7, 7⟩).col 2 = ⟨7, 7, 7, 7⟩ := rfl
theorem witness_KeyScheduleRecurrence : 4 ≤ 4 ∧ 4 ≤ 43 ∧ 4 ≤ 43 ∧ 43 ≤ 43 := by decide
theorem witness_idle_keyed : (keyed pM).pend = none ∧ (keyed pM).keyValid = true ∧ (keyed pM).busy = false := ⟨rfl, rfl, rfl⟩
theorem witness_CommandsAccepted : State.reset.pend = none ∧ Instr.gfmul.WellFormed ∧
    (needsKey .gfmul = true → State.reset.keyValid = true) := by decide
theorem witness_CommandsAccepted_key : (keyed pM).pend = none ∧ (Instr.round 9).WellFormed ∧
    (needsKey (.round 9) = true → (keyed pM).keyValid = true) := ⟨rfl, rfl, fun _ => rfl⟩
theorem witness_RoundCommands : 1 ≤ (1 : Fin 11).val ∧ (1 : Fin 11).val ≤ 9 ∧ 1 ≤ (9 : Fin 11).val ∧ (9 : Fin 11).val ≤ 9 := by
  decide
theorem witness_KeyCommandsNeedKeyValid :
    (Instr.ark 0).opc ∈ ([0x14, 0x30, 0x31, 0x32, 0x33, 0x40, 0x41] : List (BitVec 8)) ∧ (Instr.ark 0).WellFormed ∧
      State.reset.pend = none ∧ State.reset.keyValid = false := by decide
theorem witness_KeyCommandsNeedKeyValid_others :
    Instr.keyexp.opc ∉ ([0x14, 0x30, 0x31, 0x32, 0x33, 0x40, 0x41] : List (BitVec 8)) := by decide
theorem witness_KeyCommandsNeedKeyValid_decode : decode 0x00001040 = .error .reservedField := rfl
theorem witness_IssueChecks : State.reset.pend = none ∧ (0 : Fin 11).val = 0 ∧ 9 < (10 : Fin 11).val := by decide
theorem witness_IssueChecks_other : (pendingOf .enc).pend = some ⟨.enc, Snapshot.of (keyed pM)⟩ ∧ Instr.enc ≠ .nop :=
  ⟨rfl, by decide⟩
theorem witness_frames (i : Instr) : ∃ t, exec i (keyed pM) = .next t := by
  cases i <;> (first | exact ⟨_, rfl⟩ | (rename_i k; revert k; exact fun k => by fin_cases k <;> exact ⟨_, rfl⟩))
theorem witness_busy : (pendingOf .enc).busy = true ∧ (9 : WordAddr).toNat ≤ 9 ∧ (12 : WordAddr).toNat = 12 := ⟨rfl, by decide, by decide⟩
theorem witness_BadWrites : (10 : WordAddr).toNat = 0x028 / 4 ∧ (11 : WordAddr).toNat = 0x02C / 4 ∧
    0x038 / 4 ≤ (14 : WordAddr).toNat ∧ 0x038 / 4 ≤ (127 : WordAddr).toNat := by decide
theorem witness_FirstErrorKept : State.reset.err = false ∧ (raise .noKey State.reset).err = true := by decide
theorem witness_StatusWrite : (4 : Word).getLsbD 2 = true ∧ (0xFB : Word).getLsbD 2 = false := by decide
theorem witness_ReservedReads : (11 : WordAddr).toNat = 0x02C / 4 ∧ (12 : WordAddr).toNat = 0x030 / 4 ∧
    0x038 / 4 ≤ (14 : WordAddr).toNat ∧ (63 : WordAddr).toNat ≤ 0x0FC / 4 ∧ 0x1B0 / 4 ≤ (108 : WordAddr).toNat := by decide
theorem witness_BusyReads : (3 : WordAddr).toNat ≤ 3 ∧ (10 : WordAddr).toNat = 0x028 / 4 ∧
    0x100 / 4 ≤ (64 : WordAddr).toNat ∧ (107 : WordAddr).toNat ≤ 0x1AC / 4 ∧ 4 ≤ (7 : WordAddr).toNat ∧
    (7 : WordAddr).toNat ≤ 7 := by decide
theorem witness_WindowBytes : (keyed pM).st = load #v[0, 1, 2, 3, 4, 5, 6, 7, 8, 9, 10, 11, 12, 13, 14, 15] := rfl
theorem witness_WriteThenReadBack : State.reset.pend = none ∧ (0 : WordAddr).toNat ≤ 7 ∧ (7 : WordAddr).toNat ≤ 7 ∧
    (8 : WordAddr).toNat = 8 ∧ (9 : WordAddr).toNat = 9 := by decide
theorem witness_KeyValid_keyexp :
    (accept .keyexp .reset).turn = .sequencer ∧ (accept .keyexp .reset).pend = some ⟨.keyexp, Snapshot.of .reset⟩ ∧
      after (step (accept .keyexp .reset)) (·.keyValid) = some true := by decide +kernel
theorem witness_KeyValid_write :
    (hostDoes (.wr (wordAddr 0x01C) 0) (keyed pM)).turn = .host ∧
      HostWrites (hostDoes (.wr (wordAddr 0x01C) 0) (keyed pM)) (wordAddr (0x010 + 4 * (3 : Fin 4).val)) 0 ∧
      after (step (hostDoes (.wr (wordAddr 0x01C) 0) (keyed pM))) (·.keyValid) = some false :=
  ⟨rfl, .inl rfl, by decide +kernel⟩
theorem witness_StatusWriteClears_step :
    (hostDoes (.wr (wordAddr 0x034) 4) (raise .noKey .reset)).turn = .host ∧
      (hostDoes (.wr (wordAddr 0x034) 4) (raise .noKey .reset)).err = true ∧
      HostWrites (hostDoes (.wr (wordAddr 0x034) 4) (raise .noKey .reset)) (wordAddr 0x034) 4 ∧
      after (step (hostDoes (.wr (wordAddr 0x034) 4) (raise .noKey .reset))) (·.err) = some false :=
  ⟨rfl, rfl, .inl rfl, by decide +kernel⟩
/-- A recorded error stays over an accepted command. -/
theorem witness_StatusWriteClears_kept :
    after (step (hostDoes (.wr (wordAddr 0x030) 0x20) (raise .noKey .reset))) (·.errCode) = some 4 := by decide +kernel
/-- A host with no statement, and one at a statement without an access, in a reset cycle with a command pending. -/
theorem witness_reset_no_access :
    after (step { pendingOf .enc with sched := [.hostInReset] }) (fun t => t.pend.isNone) = some true ∧
      after (step { hostDoes (.mov 1 5) (pendingOf .enc) with sched := [.hostInReset] })
        (fun t => (t.pend.isNone, statusWord t)) = some (true, 0) := by decide +kernel
theorem witness_reset_turns :
    ({ pendingOf .enc with sched := [.reset] } : State).turn = .reset ∧
      ({ pendingOf .enc with sched := [.hostInReset] } : State).turn = .hostInReset := ⟨rfl, rfl⟩
theorem witness_RoundKeys_change :
    after (step (accept .keyexp .reset)) (fun t => decide (t.rk = State.reset.rk)) = some false := by decide +kernel
theorem witness_Key_change :
    after (step (hostDoes (.wr (wordAddr 0x010) 1) .reset)) (fun t => decide (t.key = State.reset.key)) = some false := by
  decide +kernel
theorem witness_invariant_pending : (pendingOf .enc).Inv := by
  refine ⟨by decide, fun _ => rfl, ?_, by decide⟩
  intro p hp
  cases hp
  exact ⟨rfl, rfl, fun _ => rfl⟩
theorem witness_invariant_step : ∃ t, step (pendingOf .nop) = .next t := ⟨_, rfl⟩
theorem witness_AccessesDuringReset :
    ({ hostDoes (.rd (wordAddr 0x010) 1) (keyed pM) with sched := [.hostInReset] } : State).turn = .hostInReset ∧
      HostWrites { hostDoes (.wr (wordAddr 0x028) 1) (keyed pM) with sched := [.hostInReset] } (wordAddr 0x028) 1 ∧
      (hostDoes (.rd (wordAddr 0x010) 1) (keyed pM)).host.prog[0]? = some (.rd (wordAddr 0x010) 1) :=
  ⟨rfl, .inl rfl, rfl⟩
/-- A write that settles, one that asks for a command, and a host at no statement. -/
theorem witness_HostStatements_write :
    (∃ t, memWrite (wordAddr 0x020) 0x157 (hostNext (dropTurn (hostDoes (.wr (wordAddr 0x020) 0x157) .reset))) =
      .settled t) ∧
    (∃ t, memWrite (wordAddr 0x030) 0x02 (hostNext (dropTurn (hostDoes (.wr (wordAddr 0x030) 0x02) .reset))) =
      .run .gfmul t) ∧
    State.reset.turn = .host ∧ State.reset.host.prog[State.reset.host.pc]? = none := ⟨⟨_, rfl⟩, ⟨_, rfl⟩, rfl, rfl⟩
theorem witness_HostStatements (c : HostStmt) :
    (hostDoes c .reset).turn = .host ∧ (hostDoes c .reset).host.prog[(hostDoes c .reset).host.pc]? = some c := ⟨rfl, rfl⟩

end Sys2Proof.Tests
end

/-! What a step can do, said once: every way the three agents can move the state. The cases follow 00_scope.md R10 (whose turn
it is), 60_exceptions.md R200 (what a host write does) and 30_encoding.md R92 (completion). -/

namespace Sys2Proof.Machine

/-- `StepTo s t`: one of the ways a step can lead from s to t, with whose turn it was and what was asked for. -/
inductive StepTo (s : State) : State → Prop where
  /-- A cycle with rst_n = 0: the block is reset, and the host's place and variables may move on (R230, R232). -/
  | reset (pc : Nat) (vars : List (Nat × Word)) (ht : s.turn = .reset ∨ s.turn = .hostInReset) :
      StepTo s { resetBlock (dropTurn s) with host := { s.host with pc := pc, vars := vars } }
  /-- The sequencer's turn with nothing pending. -/
  | idle (ht : s.turn = .sequencer) (hp : s.pend = none) : StepTo s (dropTurn s)
  /-- The sequencer completes the pending command (R92). -/
  | completes (i : Instr) (x : Snapshot) (ht : s.turn = .sequencer) (hp : s.pend = some ⟨i, x⟩) :
      StepTo s (retire (effectOf i x (dropTurn s)))
  /-- The host's turn without a write: only its place and variables and the count of draws move on (R55, R86). -/
  | noWrite (draws pc : Nat) (vars : List (Nat × Word)) (ht : s.turn = .host) :
      StepTo s { dropTurn s with draws := draws, host := { s.host with pc := pc, vars := vars } }
  /-- A host write is rejected, and its error recorded (R206). -/
  | rejected (a : WordAddr) (v : Word) (e : ErrCode) (ht : s.turn = .host) (hw : HostWrites s a v) :
      StepTo s (raise e (hostNext (dropTurn s)))
  /-- The host writes STATUS (R35). -/
  | writesStatus (v : Word) (ht : s.turn = .host) (hw : HostWrites s (wordAddr 0x034) v) :
      StepTo s (if clearBit v then clearError (hostNext (dropTurn s)) else hostNext (dropTurn s))
  /-- The host writes a STATE word of an idle block (R23). -/
  | writesState (a : WordAddr) (v : Word) (c : Fin 4) (ht : s.turn = .host) (hp : s.pend = none)
      (hw : HostWrites s a v) (ha : regAt a = .state c) :
      StepTo s { hostNext (dropTurn s) with st := s.st.setCol c (.ofWord v) }
  /-- The host writes a KEY word of an idle block (R25). -/
  | writesKey (a : WordAddr) (v : Word) (w : Fin 4) (ht : s.turn = .host) (hp : s.pend = none)
      (hw : HostWrites s a v) (ha : regAt a = .key w) :
      StepTo s { hostNext (dropTurn s) with key := setKeyWord s.key w v, keyValid := false }
  /-- The host writes GF_A of an idle block (R29). -/
  | writesGfA (a : WordAddr) (v : Word) (ht : s.turn = .host) (hp : s.pend = none) (hw : HostWrites s a v)
      (ha : regAt a = .gfA) : StepTo s { hostNext (dropTurn s) with gfA := v.setWidth 8 }
  /-- The host writes GF_B of an idle block (R30). -/
  | writesGfB (a : WordAddr) (v : Word) (ht : s.turn = .host) (hp : s.pend = none) (hw : HostWrites s a v)
      (ha : regAt a = .gfB) : StepTo s { hostNext (dropTurn s) with gfB := v.setWidth 8 }
  /-- The host writes to CMD a word whose command passes its checks and is accepted (R89, R90). -/
  | accepted (a : WordAddr) (v : Word) (i : Instr) (ht : s.turn = .host) (hp : s.pend = none) (hw : HostWrites s a v)
      (ha : regAt a = .cmd) (hd : decode v = .ok i) (hi : issueError i s = none) :
      StepTo s (accept i (hostNext (dropTurn s)))

/-- A step has one next state. -/
theorem step_next_unique {s t u : State} (ht : step s = .next t) (hu : step s = .next u) : t = u :=
  Host.Outcome.next.inj (ht.symm.trans hu)

/-- R92: the sequencer's step with a command pending completes it. -/
theorem step_completes {s : State} {i : Instr} {x : Snapshot} (ht : s.turn = .sequencer) (hp : s.pend = some ⟨i, x⟩) :
    step s = .next (retire (effectOf i x (dropTurn s))) := by
  rw [step_sequencer ht hp, exec_eq_command]
  exact command_complete hp

/-- On the host's turn its write is what `memWrite` makes of it, with the host already at the statement after it. -/
theorem hostMove_of_hostWrites {s : State} {a : WordAddr} {v : Word} (hw : HostWrites s a v) :
    hostMove true (dropTurn s) = memWrite a v (hostNext (dropTurn s)) := by
  obtain h | ⟨n, h, rfl⟩ := hw <;> exact hostMove_stmt (s := dropTurn s) h

/-- A host write that settles makes the whole step. -/
theorem step_hostWrites {s t : State} {a : WordAddr} {v : Word} (ht : s.turn = .host) (hw : HostWrites s a v)
    (hm : memWrite a v (hostNext (dropTurn s)) = .settled t) : step s = .next t :=
  step_host_settled ht ((hostMove_of_hostWrites hw).trans hm)

/-- The step of a host write of v to a. -/
theorem stepTo_of_hostWrites {s t : State} {a : WordAddr} {v : Word} (ht : s.turn = .host) (hw : HostWrites s a v)
    (h : step s = .next t) : StepTo s t := by
  have settles {u : State} (hm : memWrite a v (hostNext (dropTurn s)) = .settled u) : t = u :=
    step_next_unique h (step_hostWrites ht hw hm)
  obtain ⟨e, hm⟩ | ⟨ha, hm⟩ | ⟨hp, ⟨c, ha, hm⟩ | ⟨w, ha, hm⟩ | ⟨ha, hm⟩ | ⟨ha, hm⟩ | ⟨i, ha, hd, hm⟩⟩ :=
    memWrite_cases a v (hostNext (dropTurn s))
  · exact settles hm ▸ .rejected a v e ht hw
  · obtain rfl := (regAt_eq_status_iff a).1 ha
    exact settles hm ▸ .writesStatus v ht hw
  · exact settles hm ▸ .writesState a v c ht hp hw ha
  · exact settles hm ▸ .writesKey a v w ht hp hw ha
  · exact settles hm ▸ .writesGfA a v ht hp hw ha
  · exact settles hm ▸ .writesGfB a v ht hp hw ha
  · rw [step_host_run ht ((hostMove_of_hostWrites hw).trans hm)] at h
    obtain ⟨e, rfl⟩ | ⟨-, hi, rfl⟩ | ⟨x, hx, -⟩ := exec_cases h
    · exact .rejected a v e ht hw
    · exact .accepted a v i ht hp hw ha hd hi
    · simp_all

/-- Every step is one of the moves of `StepTo`. -/
theorem stepTo_of_step {s t : State} (h : step s = .next t) : StepTo s t := by
  cases ht : s.turn with
  | host =>
    obtain ⟨a, v, hw, -⟩ | ⟨u, hm, hu⟩ := hostMove_live (dropTurn s)
    · exact stepTo_of_hostWrites ht hw h
    · exact step_next_unique h (step_host_settled ht hm) ▸ hu ▸ .noWrite _ _ _ ht
  | sequencer =>
    cases hp : s.pend with
    | none => exact step_next_unique h (step_sequencer_none ht hp) ▸ .idle ht hp
    | some p => exact step_next_unique h (step_completes ht hp) ▸ .completes p.cmd p.snap ht hp
  | reset => exact step_next_unique h (step_reset ht) ▸ .reset s.host.pc s.host.vars (.inl ht)
  | hostInReset =>
    obtain ⟨u, -, hs, hu⟩ := step_hostInReset ht
    exact step_next_unique h hs ▸ hu ▸ .reset _ _ (.inr ht)

/-! What a completion leaves of the flags. -/

@[simp] theorem effectOf_err (i : Instr) (x : Snapshot) (s : State) : (effectOf i x s).err = s.err := by
  simp [effectOf_frame]

@[simp] theorem effectOf_errCode (i : Instr) (x : Snapshot) (s : State) : (effectOf i x s).errCode = s.errCode := by
  simp [effectOf_frame]

/-- R34: no command but KEYEXP writes KEYVALID. -/
theorem effectOf_keyValid_of_ne (i : Instr) (x : Snapshot) (s : State) (hi : i ≠ .keyexp) :
    (effectOf i x s).keyValid = s.keyValid := by
  cases i with
  | keyexp => exact absurd rfl hi
  | _ => rfl

/-! What a write of the window does, register by register. -/

@[simp] theorem regAt_status : regAt (wordAddr 0x034) = .status := (regAt_eq_status_iff _).2 rfl

@[simp] theorem regAt_state (c : Fin 4) : regAt (wordAddr (4 * c.val)) = .state c := by
  simpa [addrOf, WindowReg.byteAddr] using regAt_addrOf (.state c) (by simp)

@[simp] theorem regAt_key (w : Fin 4) : regAt (wordAddr (0x010 + 4 * w.val)) = .key w :=
  regAt_addrOf (.key w) (by simp)

@[simp] theorem unlessBusy_of_busy {s : State} (act : Action) (h : s.busy = true) :
    unlessBusy s act = .settled (raise .busyWrite s) := by
  simp [unlessBusy, h]

@[simp] theorem unlessBusy_of_idle {s : State} (act : Action) (h : s.busy = false) : unlessBusy s act = act := by
  simp [unlessBusy, h]

theorem memWrite_status (v : Word) (s : State) :
    memWrite (wordAddr 0x034) v s = .settled (if clearBit v then clearError s else s) := by
  simp [memWrite]

theorem memWrite_status_of_set {v : Word} (s : State) (hv : v.getLsbD 2 = true) :
    memWrite (wordAddr 0x034) v s = .settled (clearError s) := by
  rw [memWrite_status, clearBit, hv, if_pos rfl]

theorem memWrite_status_of_clear {v : Word} (s : State) (hv : v.getLsbD 2 = false) :
    memWrite (wordAddr 0x034) v s = .settled s := by
  rw [memWrite_status, clearBit, hv, if_neg Bool.false_ne_true]

theorem memWrite_state (c : Fin 4) (v : Word) (s : State) :
    memWrite (wordAddr (4 * c.val)) v s = unlessBusy s (.settled { s with st := s.st.setCol c (.ofWord v) }) := by
  simp [memWrite]

theorem memWrite_key (w : Fin 4) (v : Word) (s : State) :
    memWrite (wordAddr (0x010 + 4 * w.val)) v s =
      unlessBusy s (.settled { s with key := setKeyWord s.key w v, keyValid := false }) := by
  simp [memWrite]

/-- R24: the four bytes of KEY word w are the lanes of v, the others stay. -/
theorem getElem_setKeyWord (key : Block) (w : Fin 4) (v : Word) (n : Fin 16) :
    (setKeyWord key w v)[n] = if n.val / 4 = w.val then laneOf v ⟨n.val % 4, by omega⟩ else key[n] := by
  have hn : n.val < 16 := n.isLt
  have hw : w.val < 4 := w.isLt
  simp only [setKeyWord, Fin.getElem_fin, Vector.getElem_set]
  by_cases h : n.val / 4 = w.val
  · have lane (k : Fin 4) (hk : 4 * w.val + k.val = n.val) : laneOf v k = laneOf v ⟨n.val % 4, by omega⟩ :=
      congrArg (laneOf v) (Fin.ext (show k.val = n.val % 4 by omega))
    rw [if_pos h]
    split_ifs with h3 h2 h1 h0
    · exact lane 3 h3
    · exact lane 2 h2
    · exact lane 1 h1
    · exact lane 0 h0
    · omega
  · rw [if_neg h, if_neg (by omega), if_neg (by omega), if_neg (by omega), if_neg (by omega)]

/-- The number of a concatenation, its upper part weighted by the width of the lower. -/
theorem toNat_append_eq_add {m n : Nat} (x : BitVec m) (y : BitVec n) :
    (x ++ y).toNat = x.toNat * 2 ^ n + y.toNat := by
  rw [BitVec.toNat_append, ← Nat.shiftLeft_add_eq_or_of_lt y.isLt, Nat.shiftLeft_eq]

/-- R36: STATUS as a number, each flag at the weight of its bit. -/
theorem statusWord_toNat (s : State) :
    (statusWord s).toNat = s.busy.toNat + 2 * s.keyValid.toNat + 4 * s.err.toNat + 16 * s.errCode.toNat := by
  simp only [statusWord, toNat_append_eq_add, BitVec.toNat_ofBool, BitVec.toNat_zero]
  omega

/-- R210: recording an error right after a clear records it whatever was recorded before. -/
theorem raise_clearError (e : ErrCode) (s : State) :
    raise e (clearError s) = { s with err := true, errCode := e.code } := rfl

/-- R210: a step keeps a recorded error, unless the host clears it by STATUS or the block is reset. -/
theorem stepTo_err {s t : State} (herr : s.err = true) (h : StepTo s t) :
    (t.err = true ∧ t.errCode = s.errCode) ∨
    (s.turn = .host ∧ (∃ v, HostWrites s (wordAddr 0x034) v ∧ v.getLsbD 2 = true) ∧ t.err = false ∧ t.errCode = 0) ∨
    ((s.turn = .reset ∨ s.turn = .hostInReset) ∧ t.err = false ∧ t.errCode = 0) := by
  cases h with
  | reset _ _ ht => exact .inr (.inr ⟨ht, rfl, rfl⟩)
  | writesStatus v ht hw =>
    cases hv : clearBit v with
    | true => exact .inr (.inl ⟨ht, ⟨v, hw, hv⟩, rfl, rfl⟩)
    | false => exact .inl ⟨herr, rfl⟩
  | _ => exact .inl (by simp [herr])

/-- R34: KEYVALID is set by the completion of KEYEXP and cleared by a KEY write or reset, and nothing else changes it. -/
theorem stepTo_keyValid {s t : State} (h : StepTo s t) (hne : t.keyValid ≠ s.keyValid) :
    (s.turn = .sequencer ∧ (∃ x, s.pend = some ⟨.keyexp, x⟩) ∧ t.keyValid = true) ∨
    (s.turn = .host ∧ s.pend = none ∧ (∃ w v, regAt w = .key v ∧ ∃ d, HostWrites s w d) ∧ t.keyValid = false) ∨
    ((s.turn = .reset ∨ s.turn = .hostInReset) ∧ t.keyValid = false) := by
  cases h with
  | reset _ _ ht => exact .inr (.inr ⟨ht, rfl⟩)
  | writesKey a v w ht hp hw ha => exact .inr (.inl ⟨ht, hp, ⟨a, w, ha, v, hw⟩, rfl⟩)
  | completes i x ht hp =>
    by_cases hi : i = .keyexp
    · subst hi
      exact .inl ⟨ht, ⟨x, hp⟩, rfl⟩
    · exact absurd (effectOf_keyValid_of_ne i x (dropTurn s) hi) hne
  | writesStatus v => exact absurd (by split <;> rfl) hne
  | _ => exact absurd (by simp) hne

/-- R230: a reset step clears KEYVALID. -/
theorem step_reset_keyValid {s : State} (ht : s.turn = .reset ∨ s.turn = .hostInReset) :
    ∃ t, step s = .next t ∧ t.keyValid = false := by
  obtain ht | ht := ht
  · exact ⟨_, step_reset ht, rfl⟩
  · obtain ⟨t, -, hs, hu⟩ := step_hostInReset ht
    exact ⟨t, hs, hu ▸ rfl⟩

/-! The obligations of 10_state.md. -/

/-- Settles O43: the access by `memWrite_status`, the step by the cases of `StepTo`. -/
theorem statusWriteClears : Obligations.StatusWriteClears := by
  refine ⟨fun v s => ⟨memWrite_status_of_set s, memWrite_status_of_clear s⟩, fun v s ht hw => ⟨fun hv => ?_, fun hv => ?_⟩,
    fun s t herr h => stepTo_err herr (stepTo_of_step h), raise_clearError⟩
  · exact step_hostWrites ht hw (memWrite_status_of_set _ hv)
  · exact step_hostWrites ht hw (memWrite_status_of_clear _ hv)

/-- Settles O44: a read of STATUS is `statusWord`, and leaves the state. -/
theorem statusReadsFlags : Obligations.StatusReadsFlags := by
  intro s
  have hr : memRead (wordAddr 0x034) s = (statusWord s, s) := by simp [memRead]
  rw [hr]
  exact ⟨rfl, statusWord_toNat s⟩

/-- Settles O45, by whether the block is busy. -/
theorem stateWriteReplacesColumn : Obligations.StateWriteReplacesColumn := by
  intro c v s
  rw [memWrite_state]
  cases hb : s.busy with
  | true => exact ⟨_, unlessBusy_of_busy _ hb, by simp⟩
  | false =>
    refine ⟨_, unlessBusy_of_idle _ hb, by simp, fun _ => ⟨fun k => ?_, fun d hd => ?_, rfl⟩⟩
    · simp [Mat.get, Column.ofWord, laneOf]
    · exact Mat.col_setCol_ne _ _ hd

/-- Settles O46, by whether the block is busy; the bytes by `getElem_setKeyWord`. -/
theorem keyWriteClearsKeyValid : Obligations.KeyWriteClearsKeyValid := by
  intro w v s
  rw [memWrite_key]
  cases hb : s.busy with
  | true => exact ⟨_, unlessBusy_of_busy _ hb, by simp⟩
  | false => exact ⟨_, unlessBusy_of_idle _ hb, by simp, fun _ => ⟨rfl, getElem_setKeyWord s.key w v⟩⟩

/-- Settles O52: nothing else by the cases of `StepTo`, and each of the three ways by its own step. -/
theorem keyValidChangesThreeWays : Obligations.KeyValidChangesThreeWays := by
  refine ⟨fun s t h => stepTo_keyValid (stepTo_of_step h), fun s x ht hp => ⟨_, step_completes ht hp, rfl⟩,
    fun s w d ht hp hw => ?_, fun s => step_reset_keyValid⟩
  have hb : (hostNext (dropTurn s)).busy = false := (busy_eq_false_iff _).2 hp
  exact ⟨_, step_hostWrites ht hw ((memWrite_key w d _).trans (unlessBusy_of_idle _ hb)), rfl⟩

end Sys2Proof.Machine

/-! What a read of the window returns, register by register, and the bytes of a 16-byte value in it (20_memory.md R48 to R53). -/

namespace Sys2Proof

/-- R13: byte n of `store(S)` is `S[n mod 4][n div 4]`. -/
theorem getElem_store (S : Mat) (n : Fin 16) : (store S)[n] = S.get ⟨n.val % 4, by omega⟩ ⟨n.val / 4, by omega⟩ := by
  fin_cases n <;> rfl

/-- R49: lane k of KEY word w is key byte 4w + k. -/
theorem laneOf_keyWordOf (key : Block) (w k : Fin 4) : laneOf (keyWordOf key w) k = key[4 * w.val + k.val] := by
  rw [keyWordOf, laneOf_toWord]
  fin_cases k <;> rfl

end Sys2Proof

namespace Sys2Proof.Machine

@[simp] theorem regAt_cmd : regAt (wordAddr 0x030) = .cmd := regAt_addrOf .cmd (by simp)

@[simp] theorem regAt_rk (j : Fin 11) (c : Fin 4) : regAt (wordAddr (0x100 + 16 * j.val + 4 * c.val)) = .rk j c :=
  regAt_addrOf (.rk j c) (by simp)

@[simp] theorem readResult_of_idle {s : State} (v : Word) (h : s.busy = false) : readResult v s = (v, s) := by
  simp [readResult, h]

theorem memRead_state {s : State} (h : s.busy = false) (c : Fin 4) :
    memRead (wordAddr (4 * c.val)) s = ((s.st.col c).toWord, s) := by
  simp [memRead, h]

theorem memRead_key (w : Fin 4) (s : State) : memRead (wordAddr (0x010 + 4 * w.val)) s = (keyWordOf s.key w, s) := by
  simp [memRead]

theorem memRead_rk {s : State} (h : s.busy = false) (j : Fin 11) (c : Fin 4) :
    memRead (wordAddr (0x100 + 16 * j.val + 4 * c.val)) s = ((s.rk[j].col c).toWord, s) := by
  simp [memRead, h]

/-- R38: CMD reads as zero. -/
theorem memRead_cmd (s : State) : memRead (wordAddr 0x030) s = (0, s) := by
  simp [memRead]

/-- R53: a reserved address reads as zero. -/
theorem memRead_of_reserved {a : WordAddr} (h : regAt a = .reserved) (s : State) : memRead a s = (0, s) := by
  simp [memRead, h]

/-- R48: byte n of a value whose words begin at byte address b is lane n mod 4 of its word n div 4. -/
theorem windowByte_of_base {b : Nat} (hb : 4 ∣ b) (n : Nat) (s : State) :
    windowByte (BitVec.ofNat 9 (b + n)) s =
      laneOf (memRead (wordAddr (b + 4 * (n / 4))) s).1 ⟨n % 4, Nat.mod_lt _ (by decide)⟩ := by
  have hw : (BitVec.ofNat 9 (b + n)).extractLsb' 2 7 = wordAddr (b + 4 * (n / 4)) := by
    apply BitVec.eq_of_toNat_eq
    simp only [wordAddr, BitVec.extractLsb'_toNat, BitVec.toNat_ofNat, Nat.shiftRight_eq_div_pow]
    omega
  have hk : (BitVec.ofNat 9 (b + n)).toNat % 4 = n % 4 := by
    rw [BitVec.toNat_ofNat]
    omega
  simp only [windowByte, hw, hk]

/-- R49: the state block begins at byte address 0x000; it is read so while BUSY = 0. -/
theorem windowByte_state {s : State} (h : s.busy = false) (n : Fin 16) :
    windowByte (BitVec.ofNat 9 n.val) s = (store s.st)[n] := by
  have hr := memRead_state h ⟨n.val / 4, by omega⟩
  have hw := windowByte_of_base (Nat.dvd_zero 4) n.val s
  simp only [Nat.zero_add] at hw
  rw [hw, hr, laneOf_toWord, getElem_store]
  rfl

/-- R49: the master key begins at byte address 0x010; it is read so at all times. -/
theorem windowByte_key (n : Fin 16) (s : State) : windowByte (BitVec.ofNat 9 (0x010 + n.val)) s = s.key[n] := by
  have hr := memRead_key ⟨n.val / 4, by omega⟩ s
  rw [windowByte_of_base (by decide), hr, laneOf_keyWordOf]
  simp [Nat.div_add_mod]

/-- R49: round key j begins at byte address 0x100 + 16 * j; it is read so while BUSY = 0. -/
theorem windowByte_rk {s : State} (h : s.busy = false) (j : Fin 11) (n : Fin 16) :
    windowByte (BitVec.ofNat 9 (0x100 + 16 * j.val + n.val)) s = (store s.rk[j])[n] := by
  have hr := memRead_rk h j ⟨n.val / 4, by omega⟩
  rw [windowByte_of_base (by omega), hr, laneOf_toWord, getElem_store]
  rfl

/-! The obligations of 20_memory.md. -/

/-- Settles O48, by whether the address is that of CMD. -/
theorem reservedReadsZero : Obligations.ReservedReadsZero := by
  intro a s h
  by_cases hc : a.toNat = 0x030 / 4
  · obtain rfl : a = wordAddr 0x030 := BitVec.eq_of_toNat_eq hc
    exact memRead_cmd s
  · exact memRead_of_reserved (regAt_of_reserved (by omega)) s

/-- Settles O50: the bytes by `windowByte_state`, `windowByte_key` and `windowByte_rk`, the words by their reads. -/
theorem windowBytesAreBlockBytes : Obligations.WindowBytesAreBlockBytes := by
  intro s hp
  have hb : s.busy = false := (busy_eq_false_iff s).2 hp
  have word (c : Fin 4) : (memRead (wordAddr (4 * c.val)) s).1 = (s.st.col c).toWord := by rw [memRead_state hb]
  refine ⟨windowByte_state hb, fun n => windowByte_key n s, windowByte_rk hb, word, fun w => ?_, fun hst => ?_⟩
  · rw [memRead_key]
    rfl
  · rw [hst] at word
    exact ⟨word 0, word 1, word 2, word 3⟩

end Sys2Proof.Machine

/-! What the decoder answers, check by check (30_encoding.md R76 to R79, R82), and what a CMD write makes of it. -/

namespace Sys2Proof

theorem toNat_opcField (v : Word) : (opcField v).toNat = v.toNat % 256 := by
  simp [opcField]

theorem opcField_eq_iff (v : Word) (o : BitVec 8) : opcField v = o ↔ v.toNat % 256 = o.toNat := by
  rw [← toNat_opcField, BitVec.toNat_inj]

/-- The reserved field is the word from bit 12 up. -/
theorem rsvField_eq_zero_iff (v : Word) : rsvField v = 0 ↔ v.toNat / 4096 = 0 := by
  have hv : v.toNat / 4096 < 2 ^ 20 := by omega
  rw [rsvField, ← BitVec.toNat_inj, BitVec.extractLsb'_toNat, Nat.shiftRight_eq_div_pow, Nat.mod_eq_of_lt hv]
  rfl

/-- Without reserved bits the index is the word from bit 8 up. -/
theorem toNat_ridxField {v : Word} (hr : v.toNat / 4096 = 0) : (ridxField v).toNat = v.toNat / 256 := by
  have hv : v.toNat / 256 < 2 ^ 4 := by omega
  rw [ridxField, BitVec.extractLsb'_toNat, Nat.shiftRight_eq_div_pow, Nat.mod_eq_of_lt hv]

/-- R74, R76: the opcodes outside the map are the illegal ones. -/
theorem opcodeMap_eq_none_iff (o : BitVec 8) : opcodeMap o = none ↔ Machine.IllegalOpc o.toNat := by
  unfold opcodeMap
  split
  case h_17 =>
    simp only [imp_false, true_iff] at *
    bv_omega
  all_goals simp

/-- The map's entry for a word whose opcode number is known. -/
theorem opcodeMap_opcField {v : Word} {o : BitVec 8} {use : RidxUse} (ho : v.toNat % 256 = o.toNat)
    (hm : opcodeMap o = some use) : opcodeMap (opcField v) = some use := by
  rwa [(opcField_eq_iff v o).2 ho]

/-- R73: a legal opcode other than ARK, ROUND and IROUND takes no index. -/
theorem opcodeMap_unused {o : BitVec 8} (hl : opcodeMap o ≠ none) (h14 : o ≠ 0x14) (h30 : o ≠ 0x30)
    (h32 : o ≠ 0x32) : ∃ i, opcodeMap o = some (.unused i) := by
  unfold opcodeMap at hl ⊢
  split at hl
  -- the illegal opcodes, then the rows of ARK, ROUND and IROUND
  case h_17 => exact absurd rfl hl
  case h_9 => exact absurd rfl h14
  case h_11 => exact absurd rfl h30
  case h_13 => exact absurd rfl h32
  all_goals exact ⟨_, rfl⟩

/-- R76: the opcode is checked first. -/
theorem decode_of_illegal {v : Word} (ho : opcodeMap (opcField v) = none) : decode v = .error .illegalOpcode := by
  simp [decode, ho]

/-- R77: the reserved bits are checked next. -/
theorem decode_of_reserved {v : Word} (ho : opcodeMap (opcField v) ≠ none) (hr : v.toNat / 4096 ≠ 0) :
    decode v = .error .reservedField := by
  obtain ⟨use, ho⟩ := Option.ne_none_iff_exists'.1 ho
  simp only [decode, ho, if_neg (mt (rsvField_eq_zero_iff v).1 hr)]

/-- R82: the index is checked last. -/
theorem decode_of_use {v : Word} {use : RidxUse} (ho : opcodeMap (opcField v) = some use) (hr : v.toNat / 4096 = 0) :
    decode v = checkRidx use (ridxField v) := by
  simp only [decode, ho, if_pos ((rsvField_eq_zero_iff v).2 hr)]

/-- R78: an opcode that takes no index has 0 in its field. -/
theorem checkRidx_unused {k : BitVec 4} (i : Instr) (hk : k.toNat ≠ 0) :
    checkRidx (.unused i) k = .error .reservedField :=
  if_neg fun h => hk (congrArg BitVec.toNat h)

/-- R79, for ARK. -/
theorem checkRidx_anyKey {k : BitVec 4} (i : Fin 11 → Instr) (hk : 10 < k.toNat) :
    checkRidx (.anyKey i) k = .error .badRidx :=
  dif_neg (by omega)

/-- R79, for ROUND and IROUND. -/
theorem checkRidx_middle {k : BitVec 4} (i : Fin 11 → Instr) (hk : k.toNat = 0 ∨ 9 < k.toNat) :
    checkRidx (.middle i) k = .error .badRidx := by
  have h : ¬ (1 ≤ k.toNat ∧ k.toNat ≤ 9) := by omega
  simp [checkRidx, MiddleRound, h]

end Sys2Proof

namespace Sys2Proof.Machine

/-- R89: with nothing pending, a CMD write of a word that does not decode records the decoder's error. -/
theorem memWrite_cmd_of_error {v : Word} {s : State} {e : ErrCode} (hp : s.pend = none) (hd : decode v = .error e) :
    memWrite (wordAddr 0x030) v s = .settled (raise e s) := by
  simp [memWrite, issue, hp, hd]

/-- R206: recording an error writes ERR and ERRCODE alone. -/
theorem raise_frame (e : ErrCode) (s : State) :
    raise e s = { s with err := (raise e s).err, errCode := (raise e s).errCode } := by
  unfold raise
  split <;> rfl

/-- R82: with nothing pending, a CMD write of a legal opcode without reserved bits, but with an index the opcode does
not take, records the error of the index check. -/
theorem memWrite_cmd_of_checkRidx {v : Word} {s : State} {use : RidxUse} {e : ErrCode} (hp : s.pend = none)
    (ho : opcodeMap (opcField v) = some use) (hr : v.toNat / 4096 = 0) (hk : checkRidx use (ridxField v) = .error e) :
    memWrite (wordAddr 0x030) v s = .settled (raise e s) :=
  memWrite_cmd_of_error hp ((decode_of_use ho hr).trans hk)

/-! The obligations of 30_encoding.md. -/

/-- Settles O3: each clause by the check of the decoder that rejects its words, and the frame by `raise_frame`. -/
theorem rejectedWordsRecordTheirError : Obligations.RejectedWordsRecordTheirError := by
  intro v s hp
  have hill : IllegalOpc (v.toNat % 256) ↔ opcodeMap (opcField v) = none := by
    rw [opcodeMap_eq_none_iff, toNat_opcField]
  refine ⟨fun ho => ?_, fun ho hr => ?_, fun ho h14 h30 h32 hr hk => ?_, fun ho hr hk => ?_, fun ho hr hk => ?_,
    fun e => raise_frame e s⟩
  · exact memWrite_cmd_of_error hp (decode_of_illegal (hill.1 ho))
  · exact memWrite_cmd_of_error hp (decode_of_reserved (mt hill.2 ho) hr)
  · obtain ⟨i, hu⟩ := opcodeMap_unused (mt hill.2 ho) (mt (opcField_eq_iff v _).1 h14)
      (mt (opcField_eq_iff v _).1 h30) (mt (opcField_eq_iff v _).1 h32)
    exact memWrite_cmd_of_checkRidx hp hu hr (checkRidx_unused i (by rwa [toNat_ridxField hr]))
  · have hu := opcodeMap_opcField (o := 0x14) ho rfl
    exact memWrite_cmd_of_checkRidx hp hu hr (checkRidx_anyKey .ark (by rwa [toNat_ridxField hr]))
  · obtain ⟨i, hu⟩ : ∃ i, opcodeMap (opcField v) = some (.middle i) := by
      obtain ho | ho := ho
      · exact ⟨.round, opcodeMap_opcField (o := 0x30) ho rfl⟩
      · exact ⟨.iround, opcodeMap_opcField (o := 0x32) ho rfl⟩
    exact memWrite_cmd_of_checkRidx hp hu hr (checkRidx_middle i (by rwa [toNat_ridxField hr]))

end Sys2Proof.Machine

/-! The field product (40_field.md R101 to R104): reduction modulo 0x11B is linear and turns a shift into a doubling, so
it carries the carry-less product to the sum of doublings that double-and-reduce accumulates. -/

namespace Sys2Proof

/-- One turn of the second loop of R101: bit d of p is cleared by the modulus shifted under it. -/
def remainderStep (p : BitVec 15) (d : Nat) : BitVec 15 :=
  if p.getLsbD d then p ^^^ ((0x11B : BitVec 15) <<< (d - 8)) else p

/-- The second loop of R101: the remainder modulo 0x11B. -/
def remainder (p : BitVec 15) : Byte := ([14, 13, 12, 11, 10, 9, 8].foldl remainderStep p).setWidth 8

/-- p with `f i` added for each i of l that is a set bit of b: the sum both products accumulate. -/
def addSelected {w : Nat} (b : Byte) (f : Nat → BitVec w) (p : BitVec w) (l : List Nat) : BitVec w :=
  l.foldl (fun p i => if b.getLsbD i then p ^^^ f i else p) p

/-- R101 is the carry-less product, then its remainder. -/
theorem gfmulRef_eq_remainder (a b : Byte) :
    gfmulRef a b = remainder (addSelected b (fun i => a.setWidth 15 <<< i) 0 (List.range 8)) := rfl

theorem remainderStep_xor (p q : BitVec 15) (d : Nat) :
    remainderStep (p ^^^ q) d = remainderStep p d ^^^ remainderStep q d := by
  simp only [remainderStep, BitVec.getLsbD_xor]
  generalize (0x11B : BitVec 15) <<< (d - 8) = m
  cases p.getLsbD d <;> cases q.getLsbD d
  case false.false => rfl
  case false.true => exact BitVec.xor_assoc p q m
  case true.false =>
    change (p ^^^ q) ^^^ m = (p ^^^ m) ^^^ q
    ac_rfl
  case true.true =>
    calc p ^^^ q = (p ^^^ q) ^^^ (m ^^^ m) := by rw [BitVec.xor_self, BitVec.xor_zero]
      _ = (p ^^^ m) ^^^ (q ^^^ m) := by ac_rfl

/-- The remainder is linear. -/
theorem remainder_xor (p q : BitVec 15) : remainder (p ^^^ q) = remainder p ^^^ remainder q := by
  simp only [remainder, List.foldl_cons, List.foldl_nil, remainderStep_xor, BitVec.setWidth_xor]

/-- A shifted value is reduced one bit higher up. -/
theorem remainderStep_shiftLeft (p : BitVec 15) {d : Nat} (h8 : 8 ≤ d) (h14 : d < 14) :
    remainderStep (p <<< 1) (d + 1) = remainderStep p d <<< 1 := by
  have hbit : (p <<< 1).getLsbD (d + 1) = p.getLsbD d := by
    simp [BitVec.getLsbD_eq_getElem (show d < 15 by omega), show d + 1 < 15 by omega]
  have hmod : (0x11B : BitVec 15) <<< (d + 1 - 8) = ((0x11B : BitVec 15) <<< (d - 8)) <<< 1 := by
    rw [← BitVec.shiftLeft_add, Nat.sub_add_comm h8]
  simp only [remainderStep, hbit, hmod]
  split
  · rw [BitVec.shiftLeft_xor_distrib]
  · rfl

/-- R102: the turn at bit 8 of a shifted value is the doubling of its low byte. -/
theorem setWidth_remainderStep_shiftLeft (p : BitVec 15) :
    (remainderStep (p <<< 1) 8).setWidth 8 = xtime (p.setWidth 8) := by
  have hbit : (p <<< 1).getLsbD 8 = (p.setWidth 8).msb := by
    simp [BitVec.msb_eq_getLsbD_last]
  have hshift : (p <<< 1).setWidth 8 = p.setWidth 8 <<< 1 := BitVec.setWidth_shiftLeft_of_le (by decide)
  rw [remainderStep, hbit, xtime]
  split
  · rw [BitVec.setWidth_xor, hshift]
    rfl
  · exact hshift.trans BitVec.xor_zero.symm

/-- Without the top bit, the remainder of a shifted value is the doubled remainder. -/
theorem remainder_shiftLeft {p : BitVec 15} (h : p.getLsbD 14 = false) : remainder (p <<< 1) = xtime (remainder p) := by
  have htop : remainderStep p 14 = p := if_neg (Bool.eq_false_iff.1 h)
  simp only [remainder, List.foldl_cons, List.foldl_nil, htop]
  rw [← setWidth_remainderStep_shiftLeft]
  simp [remainderStep_shiftLeft]

theorem remainder_setWidth (a : Byte) : remainder (a.setWidth 15) = a := by
  have hbit {d : Nat} (h : 8 ≤ d) : remainderStep (a.setWidth 15) d = a.setWidth 15 := by
    simp [remainderStep, BitVec.getLsbD_of_ge a d h]
  simp [remainder, hbit]

/-- A byte shifted i places, i up to 7, has as remainder the byte doubled i times. -/
theorem remainder_setWidth_shiftLeft (a : Byte) {i : Nat} (h : i < 8) :
    remainder (a.setWidth 15 <<< i) = xtime^[i] a := by
  induction i with
  | zero => exact (congrArg remainder (BitVec.shiftLeft_zero _)).trans (remainder_setWidth a)
  | succ i ih =>
    have htop : (a.setWidth 15 <<< i).getLsbD 14 = false := by
      simp [BitVec.getLsbD_of_ge a (14 - i) (by omega)]
    rw [BitVec.shiftLeft_add, remainder_shiftLeft htop, ih (by omega), Function.iterate_succ_apply']

/-- The remainder of a sum is the sum of the remainders. -/
theorem remainder_addSelected (b : Byte) (f : Nat → BitVec 15) (p : BitVec 15) (l : List Nat) :
    remainder (addSelected b f p l) = addSelected b (fun i => remainder (f i)) (remainder p) l := by
  refine (List.foldl_hom remainder fun p i => ?_).symm
  split
  · rw [remainder_xor]
  · rfl

/-- R103: double-and-reduce adds, for each set bit i of y, x doubled i times. -/
theorem gfmulLoop_eq_addSelected (n : Nat) (p x y : Byte) :
    gfmulLoop n p x y = addSelected y (fun i => xtime^[i] x) p (List.range n) := by
  induction n generalizing p x y with
  | zero => rfl
  | succ n ih =>
    rw [gfmulLoop, ih, List.range_succ_eq_map, addSelected, addSelected, List.foldl_cons, List.foldl_map]
    simp [Nat.add_comm 1]

theorem gfmul_eq_addSelected (a b : Byte) :
    gfmul a b = addSelected b (fun i => xtime^[i] a) 0 (List.range 8) :=
  gfmulLoop_eq_addSelected 8 0 a b

/-- Settles O10: the remainder of the carry-less product, term by term, is the sum of doublings. -/
theorem gfmulIsReferenceProduct : Obligations.GfmulIsReferenceProduct := by
  intro a b
  rw [gfmul_eq_addSelected, gfmulRef_eq_remainder, remainder_addSelected]
  refine List.foldl_ext _ _ _ fun p i hi => ?_
  simp only [remainder_setWidth_shiftLeft a (List.mem_range.1 hi)]

end Sys2Proof

/-! The column mix (42_mixcolumns.md R131). A row of M multiplies on the left by 1, 2 and 3, while double-and-reduce
doubles its left factor. The carry-less product is a double sum over the set bits of both factors, so the product commutes
and its left factor may also say which doublings of the right one to add. -/

namespace Sys2Proof

theorem addSelected_cons {w : Nat} (b : Byte) (f : Nat → BitVec w) (p : BitVec w) (i : Nat) (l : List Nat) :
    addSelected b f p (i :: l) = addSelected b f (if b.getLsbD i then p ^^^ f i else p) l := rfl

theorem addSelected_range_succ {w : Nat} (b : Byte) (f : Nat → BitVec w) (p : BitVec w) (n : Nat) :
    addSelected b f p (List.range (n + 1)) =
      if b.getLsbD n then addSelected b f p (List.range n) ^^^ f n else addSelected b f p (List.range n) := by
  rw [addSelected, List.range_succ, List.foldl_append]
  rfl

theorem addSelected_xor {w : Nat} (b : Byte) (f g : Nat → BitVec w) (p q : BitVec w) (l : List Nat) :
    addSelected b (fun i => f i ^^^ g i) (p ^^^ q) l = addSelected b f p l ^^^ addSelected b g q l := by
  induction l generalizing p q with
  | nil => rfl
  | cons i l ih =>
    simp only [addSelected_cons]
    rw [← ih]
    split
    · congr 1
      ac_rfl
    · rfl

/-- An additive map goes inside the sum. -/
theorem map_addSelected {v w : Nat} {h : BitVec v → BitVec w} (hadd : ∀ x y, h (x ^^^ y) = h x ^^^ h y) (b : Byte)
    (f : Nat → BitVec v) (p : BitVec v) (l : List Nat) :
    h (addSelected b f p l) = addSelected b (fun i => h (f i)) (h p) l := by
  refine (List.foldl_hom h fun p i => ?_).symm
  split
  · rw [hadd]
  · rfl

theorem addSelected_zero {w : Nat} (b : Byte) (l : List Nat) : addSelected b (fun _ => (0 : BitVec w)) 0 l = 0 :=
  (map_addSelected (h := fun _ : BitVec w => (0 : BitVec w)) (fun _ _ => BitVec.xor_zero.symm) b (fun _ => 0) 0 l).symm

/-- Two nested sums exchange; the outer one starts from a sum over the inner list. -/
theorem addSelected_addSelected {w : Nat} (a b : Byte) (f : Nat → Nat → BitVec w) (g : Nat → BitVec w) (l m : List Nat) :
    addSelected a (fun i => addSelected b (f i) 0 m) (addSelected b g 0 m) l =
      addSelected b (fun j => addSelected a (fun i => f i j) (g j) l) 0 m := by
  induction l generalizing g with
  | nil => rfl
  | cons i l ih =>
    simp only [addSelected_cons]
    split
    · rw [← addSelected_xor, BitVec.xor_self]
      exact ih fun j => g j ^^^ f i j
    · exact ih g

theorem addSelected_comm {w : Nat} (a b : Byte) (f : Nat → Nat → BitVec w) (l m : List Nat) :
    addSelected a (fun i => addSelected b (f i) 0 m) 0 l =
      addSelected b (fun j => addSelected a (fun i => f i j) 0 l) 0 m := by
  simpa only [addSelected_zero] using addSelected_addSelected a b f (fun _ => 0) l m

/-- The powers of x at the set bits below n add up to the low n bits. -/
theorem getElem_addSelected_twoPow {w k : Nat} (a : Byte) (n : Nat) (hk : k < w) :
    (addSelected a (BitVec.twoPow w) 0 (List.range n))[k] = (decide (k < n) && a.getLsbD k) := by
  induction n with
  | zero => simp [addSelected]
  | succ n ih =>
    have hsum : (addSelected a (BitVec.twoPow w) 0 (List.range (n + 1)))[k] =
        ((decide (k < n) && a.getLsbD k) ^^ (a.getLsbD n && decide (k = n))) := by
      rw [addSelected_range_succ, ← ih]
      split <;> simp [*]
    rw [hsum]
    by_cases hkn : k = n
    · simp [hkn]
    · simp [hkn, Nat.le_iff_lt_or_eq]

/-- A byte, as a polynomial, is the sum of the powers of x at its set bits. -/
theorem setWidth_eq_addSelected (a : Byte) :
    a.setWidth 15 = addSelected a (BitVec.twoPow 15) 0 (List.range 8) := by
  ext k hk
  rw [BitVec.getElem_setWidth, getElem_addSelected_twoPow]
  simpa using BitVec.lt_of_getLsbD

/-- The carry-less product (R101, the first loop) commutes. -/
theorem addSelected_shiftLeft_comm (a b : Byte) :
    addSelected b (fun i => a.setWidth 15 <<< i) 0 (List.range 8) =
      addSelected a (fun i => b.setWidth 15 <<< i) 0 (List.range 8) := by
  have hshift (c : Byte) (i : Nat) :
      c.setWidth 15 <<< i = addSelected c (fun j => BitVec.twoPow 15 (j + i)) 0 (List.range 8) := by
    simp only [BitVec.twoPow_eq, BitVec.shiftLeft_add]
    rw [setWidth_eq_addSelected, map_addSelected (h := (· <<< i)) fun x y => BitVec.shiftLeft_xor_distrib x y i]
    simp [BitVec.twoPow_eq]
  simp only [hshift]
  rw [addSelected_comm]
  simp only [Nat.add_comm]

theorem gfmul_comm (a b : Byte) : gfmul a b = gfmul b a := by
  rw [gfmulIsReferenceProduct, gfmulIsReferenceProduct, gfmulRef_eq_remainder, gfmulRef_eq_remainder,
    addSelected_shiftLeft_comm]

/-- The product adds, for each set bit i of the left factor, the right one doubled i times. -/
theorem gfmul_eq_addSelected_left (a b : Byte) :
    gfmul a b = addSelected a (fun i => xtime^[i] b) 0 (List.range 8) := by
  rw [gfmul_comm, gfmul_eq_addSelected]

theorem gfmul_one_left (a : Byte) : gfmul 1 a = a := by
  simp [gfmul_eq_addSelected_left, addSelected, List.range_succ]

theorem gfmul_two_left (a : Byte) : gfmul 2 a = xtime a := by
  simp [gfmul_eq_addSelected_left, addSelected, List.range_succ]

theorem gfmul_three_left (a : Byte) : gfmul 3 a = xtime a ^^^ a := by
  simp [gfmul_eq_addSelected_left, addSelected, List.range_succ, BitVec.xor_comm]

/-- Settles O15: the rows are those of M, and R110's products by 1, 2 and 3 write them with xtime. -/
theorem mixColWrittenOut : Obligations.MixColWrittenOut := by
  intro a0 a1 a2 a3
  refine ⟨rfl, ?_⟩
  simp only [mixCol, Column.ofFn, rowTimes, mdsRow, gfmul_one_left, gfmul_two_left, gfmul_three_left]

end Sys2Proof

/-! AddRoundKey and the key schedule (43_key.md R150 to R153). The four words of a window are consecutive words of the
schedule, so the step of the window is the recurrence of R152 and the window at 4j is round key j. -/

namespace Sys2Proof

@[simp] theorem Mat.get_zero (r c : Fin 4) : Mat.zero.get r c = 0 := by
  fin_cases c <;> fin_cases r <;> rfl

/-- Settles O18: byte by byte, by the laws of XOR. -/
theorem addRoundKeySelfInverse : Obligations.AddRoundKeySelfInverse := by
  refine fun S K => ⟨addRoundKey_get S K, Mat.ext_get fun r c => ?_, Mat.ext_get fun r c => ?_⟩
  · rw [addRoundKey_get, addRoundKey_get, BitVec.xor_assoc, BitVec.xor_self, BitVec.xor_zero]
  · rw [addRoundKey_get, Mat.get_zero]
    exact BitVec.xor_zero

/-- R151: byte k of word i below 4 is key byte 4i + k. -/
theorem firstWords_get (key : Block) (k i : Fin 4) : (firstWords key).get k i = key[4 * i.val + k.val] := by
  fin_cases i <;> fin_cases k <;> rfl

theorem scheduleWindow_col (key : Block) (n : Nat) (c : Fin 4) :
    (scheduleWindow key n).col c = scheduleWord key (n + c.val) := by
  fin_cases c <;> rfl

theorem scheduleWord_add_four (key : Block) (n : Nat) : scheduleWord key (n + 4) =
    (scheduleWord key n).add (scheduleTerm (n + 4) (scheduleWord key (n + 3))) := rfl

/-- R152: RotWord and Rcon on every fourth word, written out byte by byte. -/
theorem scheduleTerm_eq (i : Nat) (t : Column) :
    scheduleTerm i t = if i % 4 = 0 then ⟨t.b1 ^^^ rcon (i / 4), t.b2, t.b3, t.b0⟩ else t := by
  simp [scheduleTerm, rotWord, Column.add, gfadd]

theorem getElem_keySchedule (key : Block) (j : Fin 11) : (keySchedule key)[j] = scheduleWindow key (4 * j.val) := by
  fin_cases j <;> rfl

/-- Settles O19: the first window holds the key's words, each step of the window is the recurrence, and a round key's
columns are the words of its window. -/
theorem keyScheduleRecurrence : Obligations.KeyScheduleRecurrence := by
  refine fun key => ⟨fun i k => ?_, fun i hi _ => ?_, fun j r c => ?_, getElem_keySchedule key⟩
  · have hfirst : scheduleWord key i = (firstWords key).col i := by
      rw [← Nat.zero_add i.val, ← scheduleWindow_col, scheduleWindow]
    rw [hfirst]
    exact firstWords_get key k i
  · obtain ⟨n, rfl⟩ := Nat.exists_eq_add_of_le' hi
    rw [scheduleWord_add_four, scheduleTerm_eq]
    rfl
  · rw [getElem_keySchedule, Mat.get, scheduleWindow_col]

end Sys2Proof

/-! The column mix and its inverse (42_mixcolumns.md R131, R132). Mixing adds to each byte the sum p of the column and the
doubled sum of the byte and the next one. It keeps p, so mixing twice is the column the double-xtime identity hands to
mixcol, and that column's map is its own inverse. Hence invmixcol is mixcol three times, and mixcol four times changes
nothing. -/

namespace Sys2Proof

theorem xor_xor_cancel_left {w : Nat} (a b : BitVec w) : a ^^^ (a ^^^ b) = b := by
  rw [← BitVec.xor_assoc, BitVec.xor_self, BitVec.zero_xor]

theorem xor_left_comm {w : Nat} (a b c : BitVec w) : a ^^^ (b ^^^ c) = b ^^^ (a ^^^ c) := by
  ac_rfl

/-- R111: xtime is additive, as the remainder of the shifted byte. -/
theorem xtime_xor (a b : Byte) : xtime (a ^^^ b) = xtime a ^^^ xtime b := by
  have hx (a : Byte) : xtime a = remainder (a.setWidth 15 <<< 1) :=
    (remainder_setWidth_shiftLeft a (i := 1) (by decide)).symm
  rw [hx, hx, hx, ← remainder_xor, ← BitVec.shiftLeft_xor_distrib, ← BitVec.setWidth_xor]

/-- The sum of a column's bytes. -/
def columnSum (a : Column) : Byte := a.b0 ^^^ a.b1 ^^^ a.b2 ^^^ a.b3

/-- The mixed byte of x, with y the next byte of a column whose sum is p. -/
def mixByte (p x y : Byte) : Byte := x ^^^ p ^^^ xtime (x ^^^ y)

/-- The column that R132's double-xtime identity hands to mixcol. -/
def preMixCol (a : Column) : Column :=
  ⟨a.b0 ^^^ xtime (xtime (a.b0 ^^^ a.b2)), a.b1 ^^^ xtime (xtime (a.b1 ^^^ a.b3)),
   a.b2 ^^^ xtime (xtime (a.b0 ^^^ a.b2)), a.b3 ^^^ xtime (xtime (a.b1 ^^^ a.b3))⟩

theorem invMixCol_eq (a : Column) : invMixCol a = mixCol (preMixCol a) := rfl

theorem mixCol_eq_mixByte (a : Column) : mixCol a =
    ⟨mixByte (columnSum a) a.b0 a.b1, mixByte (columnSum a) a.b1 a.b2, mixByte (columnSum a) a.b2 a.b3,
     mixByte (columnSum a) a.b3 a.b0⟩ := by
  rw [(mixColWrittenOut a.b0 a.b1 a.b2 a.b3).2]
  simp only [mixByte, columnSum, xtime_xor, Column.mk.injEq]
  refine ⟨?_, ?_, ?_, ?_⟩ <;>
    simp only [BitVec.xor_assoc, BitVec.xor_comm, xor_left_comm, xor_xor_cancel_left]

theorem mixByte_xor_mixByte (p x y z : Byte) :
    mixByte p x y ^^^ mixByte p y z = (x ^^^ y) ^^^ xtime (x ^^^ z) := by
  simp only [mixByte, xtime_xor, BitVec.xor_assoc, BitVec.xor_comm, xor_left_comm, xor_xor_cancel_left]

theorem columnSum_mixCol (a : Column) : columnSum (mixCol a) = columnSum a := by
  rw [mixCol_eq_mixByte, columnSum, BitVec.xor_assoc, mixByte_xor_mixByte, mixByte_xor_mixByte]
  simp only [columnSum, BitVec.xor_assoc, BitVec.xor_comm, xor_left_comm, BitVec.xor_self, BitVec.xor_zero]

theorem mixByte_mixByte (p x y z : Byte) :
    mixByte p (mixByte p x y) (mixByte p y z) = x ^^^ xtime (xtime (x ^^^ z)) := by
  rw [mixByte, mixByte_xor_mixByte, xtime_xor, mixByte]
  generalize xtime (x ^^^ y) = u
  simp only [BitVec.xor_assoc, BitVec.xor_comm, xor_left_comm, xor_xor_cancel_left]

theorem mixCol_mixCol (a : Column) : mixCol (mixCol a) = preMixCol a := by
  rw [mixCol_eq_mixByte (mixCol a), columnSum_mixCol, mixCol_eq_mixByte]
  simp only [mixByte_mixByte, preMixCol, BitVec.xor_comm a.b2, BitVec.xor_comm a.b3]

theorem preMixCol_preMixCol (a : Column) : preMixCol (preMixCol a) = a := by
  have hsum (x y u : Byte) : (x ^^^ u) ^^^ (y ^^^ u) = x ^^^ y := by
    rw [BitVec.xor_comm y, BitVec.xor_assoc, xor_xor_cancel_left]
  simp only [preMixCol, hsum, BitVec.xor_assoc, BitVec.xor_self, BitVec.xor_zero]

/-- R138: the inverse mix undoes the mix of a column. -/
@[simp] theorem invMixCol_mixCol (a : Column) : invMixCol (mixCol a) = a := by
  rw [invMixCol_eq, ← mixCol_mixCol, mixCol_mixCol, mixCol_mixCol, preMixCol_preMixCol]

/-- R138: the mix undoes the inverse mix of a column. -/
@[simp] theorem mixCol_invMixCol (a : Column) : mixCol (invMixCol a) = a := by
  rw [invMixCol_eq, mixCol_mixCol, preMixCol_preMixCol]

theorem Mat.ext_col {S T : Mat} (h : ∀ c, S.col c = T.col c) : S = T :=
  Mat.ext_get fun r c => congrArg (Column.get · r) (h c)

@[simp] theorem invMixColumns_mixColumns (S : Mat) : invMixColumns (mixColumns S) = S :=
  Mat.ext_col fun c => by simp

@[simp] theorem mixColumns_invMixColumns (S : Mat) : mixColumns (invMixColumns S) = S :=
  Mat.ext_col fun c => by simp

end Sys2Proof

/-! Decryption and encryption undo each other (44_rounds.md R176 to R182). An inverse round undoes a forward round one row
rotation ahead, so the inverse middle rounds carry the rotated end of the forward ones to their rotated start; ENC and DEC
are the two functions on ST, and write nothing else. -/

namespace Sys2Proof

@[simp] theorem invShiftRows_shiftRows (S : Mat) : invShiftRows (shiftRows S) = S :=
  Mat.ext_get fun r c => by simp

@[simp] theorem shiftRows_invShiftRows (S : Mat) : shiftRows (invShiftRows S) = S :=
  Mat.ext_get fun r c => by simp

@[simp] theorem addRoundKey_addRoundKey (S K : Mat) : addRoundKey (addRoundKey S K) K = S :=
  (addRoundKeySelfInverse S K).2.1

/-- R176: an inverse round undoes a forward round one row rotation ahead. -/
@[simp] theorem inverseRound_shiftRows_forwardRound (S K : Mat) :
    inverseRound (shiftRows (forwardRound S K)) K = shiftRows S := by
  simp [inverseRound, forwardRound]

@[simp] theorem forwardRound_invShiftRows_inverseRound (S K : Mat) :
    forwardRound (invShiftRows (inverseRound S K)) K = invShiftRows S := by
  simp [inverseRound, forwardRound]

/-- The forward rounds of l, in order. -/
def forwardRounds (rk : RoundKeys) (l : List (Fin 11)) (S : Mat) : Mat :=
  l.foldl (fun T i => forwardRound T rk[i]) S

/-- The inverse rounds of l, the last one first. -/
def inverseRounds (rk : RoundKeys) (l : List (Fin 11)) (S : Mat) : Mat :=
  l.reverse.foldl (fun T i => inverseRound T rk[i]) S

theorem forwardRounds_cons (rk : RoundKeys) (i : Fin 11) (l : List (Fin 11)) (S : Mat) :
    forwardRounds rk (i :: l) S = forwardRounds rk l (forwardRound S rk[i]) := rfl

theorem inverseRounds_cons (rk : RoundKeys) (i : Fin 11) (l : List (Fin 11)) (S : Mat) :
    inverseRounds rk (i :: l) S = inverseRound (inverseRounds rk l S) rk[i] := by
  simp [inverseRounds]

theorem inverseRounds_shiftRows_forwardRounds (rk : RoundKeys) (l : List (Fin 11)) (S : Mat) :
    inverseRounds rk l (shiftRows (forwardRounds rk l S)) = shiftRows S := by
  induction l generalizing S with
  | nil => rfl
  | cons i l ih => rw [forwardRounds_cons, inverseRounds_cons, ih, inverseRound_shiftRows_forwardRound]

theorem forwardRounds_invShiftRows_inverseRounds (rk : RoundKeys) (l : List (Fin 11)) (S : Mat) :
    forwardRounds rk l (invShiftRows (inverseRounds rk l S)) = invShiftRows S := by
  induction l with
  | nil => rfl
  | cons i l ih => rw [forwardRounds_cons, inverseRounds_cons, forwardRound_invShiftRows_inverseRound, ih]

theorem encrypt_eq (rk : RoundKeys) (S : Mat) :
    encrypt rk S = addRoundKey (shiftRows (forwardRounds rk middleRounds (addRoundKey S rk[0]))) rk[10] := rfl

theorem decrypt_eq (rk : RoundKeys) (S : Mat) :
    decrypt rk S = addRoundKey (invShiftRows (inverseRounds rk middleRounds (addRoundKey S rk[10]))) rk[0] := rfl

@[simp] theorem decrypt_encrypt (rk : RoundKeys) (S : Mat) : decrypt rk (encrypt rk S) = S := by
  simp only [decrypt_eq, encrypt_eq, addRoundKey_addRoundKey, inverseRounds_shiftRows_forwardRounds,
    invShiftRows_shiftRows]

@[simp] theorem encrypt_decrypt (rk : RoundKeys) (S : Mat) : encrypt rk (decrypt rk S) = S := by
  simp only [decrypt_eq, encrypt_eq, addRoundKey_addRoundKey, forwardRounds_invShiftRows_inverseRounds,
    shiftRows_invShiftRows]

end Sys2Proof

namespace Sys2Proof.Machine

/-- R90, R92: accept and completion leave of an idle state only what the command writes from the registers as they stand. -/
theorem retire_effectOf_accept {s : State} (i : Instr) (hp : s.pend = none) :
    retire (effectOf i (.of s) (accept i s)) = effectOf i (.of s) s := by
  obtain ⟨⟩ := s
  subst hp
  cases i <;> rfl

theorem issueAndWait_of_issueError_eq_none {i : Instr} {s : State} (hp : s.pend = none) (hi : issueError i s = none) :
    issueAndWait i s = .next (effectOf i (.of s) s) := by
  rw [issueAndWait, exec_eq_command, command_accept hp hi, andThen, exec_eq_command, command_complete (accept_pend i s),
    retire_effectOf_accept i hp]

theorem issueAll_cons {i : Instr} {s t : State} (is : List Instr) (h : issueAndWait i s = .next t) :
    issueAll (i :: is) s = issueAll is t := by
  rw [issueAll, List.foldl_cons, andThen, h]
  rfl

theorem issueAll_pair_of_restores {i j : Instr} {s t : State} (hi : issueAndWait i s = .next t)
    (hj : issueAndWait j t = .next s) : issueAll [i, j] s = .next s :=
  (issueAll_cons _ hi).trans (issueAll_cons _ hj)

theorem issueAndWait_enc {s : State} (hp : s.pend = none) (hk : s.keyValid = true) :
    issueAndWait .enc s = .next { s with st := encrypt s.rk s.st } :=
  issueAndWait_of_issueError_eq_none hp ((issueError_eq_none_iff .enc s).2 ⟨rfl, fun _ => hk⟩)

theorem issueAndWait_dec {s : State} (hp : s.pend = none) (hk : s.keyValid = true) :
    issueAndWait .dec s = .next { s with st := decrypt s.rk s.st } :=
  issueAndWait_of_issueError_eq_none hp ((issueError_eq_none_iff .dec s).2 ⟨rfl, fun _ => hk⟩)

/-- Settles O21: on the functions round by round, and on the commands since each writes ST alone. -/
theorem decryptUndoesEncrypt : Obligations.DecryptUndoesEncrypt := by
  refine ⟨fun rk S => ⟨decrypt_encrypt rk S, encrypt_decrypt rk S⟩, fun s hp hk => ⟨?_, ?_⟩⟩
  · refine issueAll_pair_of_restores (issueAndWait_enc hp hk) ?_
    rw [issueAndWait_dec, decrypt_encrypt] <;> assumption
  · refine issueAll_pair_of_restores (issueAndWait_dec hp hk) ?_
    rw [issueAndWait_enc, encrypt_decrypt] <;> assumption

end Sys2Proof.Machine

/-! How an access or a command is rejected (60_exceptions.md): which words, commands and addresses raise which error. -/

namespace Sys2Proof

theorem checkRidx_error {use : RidxUse} {k : BitVec 4} {e : ErrCode} (h : checkRidx use k = .error e) :
    e = .reservedField ∨ e = .badRidx := by
  cases use with
  | unused i =>
    rw [checkRidx] at h
    split_ifs at h
    exact .inl (Except.error.inj h).symm
  | anyKey i =>
    rw [checkRidx] at h
    split_ifs at h
    exact .inr (Except.error.inj h).symm
  | middle i =>
    rw [checkRidx] at h
    split_ifs at h <;> exact .inr (Except.error.inj h).symm

/-- R82: the decoder has three errors, one for each of its checks. -/
theorem decode_error {v : Word} {e : ErrCode} (h : decode v = .error e) :
    e = .illegalOpcode ∨ e = .reservedField ∨ e = .badRidx := by
  unfold decode at h
  split at h
  · cases h
    exact .inl rfl
  · split_ifs at h
    · exact .inr (checkRidx_error h)
    · cases h
      exact .inr (.inl rfl)

theorem decode_error_ne_noKey {v : Word} {e : ErrCode} (h : decode v = .error e) : e ≠ .noKey := by
  obtain rfl | rfl | rfl := decode_error h <;> decide

end Sys2Proof

namespace Sys2Proof.Machine

/-- R203: the commands that need the key, by their opcodes. -/
theorem needsKey_iff_opc_mem (i : Instr) :
    needsKey i = true ↔ i.opc ∈ ([0x14, 0x30, 0x31, 0x32, 0x33, 0x40, 0x41] : List (BitVec 8)) := by
  cases i <;> simp [needsKey, Instr.opc]

/-- R73: ROUND and IROUND, the commands whose type holds an illegal index, both need the key. -/
theorem wellFormed_of_not_needsKey {i : Instr} (h : ¬ needsKey i = true) : i.WellFormed := by
  cases i with
  | round k => exact absurd rfl h
  | iround k => exact absurd rfl h
  | _ => rfl

theorem issueError_eq_noKey {i : Instr} {s : State} (hw : i.WellFormed) (hn : needsKey i = true)
    (hk : s.keyValid = false) : issueError i s = some .noKey := by
  simp [issueError, hw, hn, hk]

theorem exec_reject {i : Instr} {s : State} {e : ErrCode} (hp : s.pend = none) (he : issueError i s = some e) :
    exec i s = .next (raise e s) :=
  (exec_eq_command i s).trans (command_reject hp he)

theorem exec_accept {i : Instr} {s : State} (hp : s.pend = none) (he : issueError i s = none) :
    exec i s = .next (accept i s) :=
  (exec_eq_command i s).trans (command_accept hp he)

@[simp] theorem regAt_gfA : regAt (wordAddr 0x020) = .gfA := regAt_addrOf .gfA (by simp)

@[simp] theorem regAt_gfB : regAt (wordAddr 0x024) = .gfB := regAt_addrOf .gfB (by simp)

@[simp] theorem regAt_gfY : regAt (wordAddr 0x028) = .gfY := regAt_addrOf .gfY (by simp)

/-- R204: while BUSY = 1 a write to STATE, KEY, GF_A, GF_B or CMD is rejected before its word is looked at. -/
theorem memWrite_of_busy {a : WordAddr} {s : State} (v : Word) (hb : s.busy = true)
    (ha : a.toNat ≤ 9 ∨ a.toNat = 12) : memWrite a v s = .settled (raise .busyWrite s) := by
  obtain h | ⟨h, h'⟩ | h | h | h :
      a.toNat < 4 ∨ (4 ≤ a.toNat ∧ a.toNat < 8) ∨ a.toNat = 8 ∨ a.toNat = 9 ∨ a.toNat = 12 := by omega
  · simp [memWrite, regAt_of_state h, hb]
  · simp [memWrite, regAt_of_key h h', hb]
  · obtain rfl : a = wordAddr 0x020 := BitVec.eq_of_toNat_eq h
    simp [memWrite, hb]
  · obtain rfl : a = wordAddr 0x024 := BitVec.eq_of_toNat_eq h
    simp [memWrite, hb]
  · obtain rfl : a = wordAddr 0x030 := BitVec.eq_of_toNat_eq h
    simp [memWrite, hb]

/-- R205: a write to GF_Y, an RK word or a reserved address is rejected before BUSY is looked at. -/
theorem memWrite_readOnly {a : WordAddr} (v : Word) (s : State)
    (ha : a.toNat = 10 ∨ a.toNat = 11 ∨ 14 ≤ a.toNat) : memWrite a v s = .settled (raise .badWrite s) := by
  obtain h | ⟨h, h'⟩ | h : a.toNat = 10 ∨ (64 ≤ a.toNat ∧ a.toNat < 108) ∨
      (a.toNat = 11 ∨ 14 ≤ a.toNat ∧ a.toNat < 64 ∨ 108 ≤ a.toNat) := by omega
  · obtain rfl : a = wordAddr 0x028 := BitVec.eq_of_toNat_eq h
    simp [memWrite]
  · simp [memWrite, regAt_of_rk h h']
  · simp [memWrite, regAt_of_reserved h]

theorem raise_of_no_error (e : ErrCode) {s : State} (h : s.err = false) :
    raise e s = { s with err := true, errCode := e.code } := by
  simp [raise, h]

theorem raise_of_error (e : ErrCode) {s : State} (h : s.err = true) : raise e s = s := by
  simp [raise, h]

/-! The obligations of 60_exceptions.md. -/

/-- Settles O35: the commands by their issue checks, the words by the errors the decoder has. -/
theorem keyCommandsNeedKeyValid : Obligations.KeyCommandsNeedKeyValid := by
  refine ⟨fun i s ho hw hp hk => ?_, fun i s ho hp => ?_, fun v e s hp hd => ?_⟩
  · exact exec_reject hp (issueError_eq_noKey hw ((needsKey_iff_opc_mem i).2 ho) hk)
  · have hn : ¬ needsKey i = true := mt (needsKey_iff_opc_mem i).1 ho
    exact exec_accept hp ((issueError_eq_none_iff i s).2 ⟨wellFormed_of_not_needsKey hn, fun h => absurd h hn⟩)
  · exact ⟨decode_error_ne_noKey hd, memWrite_cmd_of_error hp hd⟩

/-- Settles O40, by `memWrite_of_busy` and what recording an error leaves of each field. -/
theorem busyWritesRejected : Obligations.BusyWritesRejected := by
  intro a v s hb ha
  exact ⟨_, memWrite_of_busy v hb ha, rfl, by simp [SameOutside]⟩

/-- Settles O41, by `memWrite_readOnly` and the frame of recording an error. -/
theorem badWritesRejected : Obligations.BadWritesRejected := by
  intro a v s ha
  exact ⟨_, memWrite_readOnly v s ha, rfl, raise_frame .badWrite s⟩

/-- Settles O42: each case of `raise`, and the codes by evaluation. -/
theorem firstErrorKept : Obligations.FirstErrorKept :=
  ⟨fun e _ => raise_of_no_error e, fun e _ => raise_of_error e, rfl⟩

end Sys2Proof.Machine

/-! What reset leaves (70_reset_and_hazards.md R230). In the block as reset leaves it nothing is pending, so no read
of the window is a free draw, and every byte it shows is zero. -/

namespace Sys2Proof

@[simp] theorem Mat.col_zero (c : Fin 4) : Mat.zero.col c = .zero := by
  fin_cases c <;> rfl

@[simp] theorem Column.toWord_zero : Column.zero.toWord = 0 := rfl

@[simp] theorem Block.getElem_zero {n : Nat} (h : n < 16) : Block.zero[n] = 0 :=
  Vector.getElem_replicate h

@[simp] theorem keyWordOf_zero (w : Fin 4) : keyWordOf .zero w = 0 := by
  simp [keyWordOf, Column.toWord]

end Sys2Proof

namespace Sys2Proof.Machine

@[simp] theorem readResult_reset (v : Word) : readResult v .reset = (v, .reset) :=
  readResult_of_idle v rfl

@[simp] theorem reset_st : State.reset.st = .zero := rfl

@[simp] theorem reset_key : State.reset.key = .zero := rfl

@[simp] theorem reset_rk : State.reset.rk = Vector.replicate 11 .zero := rfl

/-- R230: STATUS reads 0x00000000. -/
theorem statusWord_reset : statusWord .reset = 0 := rfl

/-- R52, R230: with every register at zero and BUSY = 0, each word of the window reads 0, and a read changes nothing. -/
theorem memRead_reset (a : WordAddr) : memRead a .reset = (0, .reset) := by
  unfold memRead
  cases regAt a with
  | state _ | key _ | rk _ _ => simp
  | status => rw [statusWord_reset]
  | gfA | gfB | gfY | cmd | reserved => rfl

theorem resetBlock_sameBlock (s : State) : SameBlock .reset (resetBlock s) :=
  ⟨rfl, rfl, rfl, rfl, rfl, rfl, rfl, rfl, rfl, rfl⟩

/-- R230, R232: a cycle with rst_n = 0 leaves the block at its reset values, whatever the host does in it. -/
theorem step_reset_sameBlock {s : State} (ht : s.turn = .reset ∨ s.turn = .hostInReset) :
    ∃ t, step s = .next t ∧ SameBlock .reset t := by
  obtain ht | ht := ht
  · exact ⟨_, step_reset ht, resetBlock_sameBlock _⟩
  · obtain ⟨t, -, hs, hu⟩ := step_hostInReset ht
    exact ⟨t, hs, hu ▸ resetBlock_sameBlock (dropTurn s)⟩

/-! The obligation of 70_reset_and_hazards.md. -/

/-- Settles O57: the registers by the definition of the reset state, the window by `memRead_reset`, the reset edge by
`step_reset_sameBlock`. -/
theorem resetValues : Obligations.ResetValues := by
  have hrk (j : Fin 11) (r c : Fin 4) : State.reset.rk[j].get r c = 0 := by simp
  exact ⟨Mat.get_zero, fun n => Block.getElem_zero n.isLt, hrk, rfl, rfl, rfl, rfl, rfl, rfl, rfl, rfl,
    statusWord_reset, memRead_reset, fun _ => step_reset_sameBlock⟩

end Sys2Proof.Machine

/-! Decoder and encoder (30_encoding.md R82 to R85). The opcode map gives each command its own opcode and its use of the
index, so the decoder answers exactly the well-formed command whose opcode and index the word's fields are. -/

namespace Sys2Proof

theorem encode_fields (i : Instr) :
    opcField (encode i) = i.opc ∧ ridxField (encode i) = i.ridx ∧ rsvField (encode i) = 0 :=
  Laws.EncodeFields.fields i.opc i.ridx

/-- R71: a word without reserved bits is its index and its opcode. -/
theorem setWidth_ridxField_append_opcField {v : Word} (hr : rsvField v = 0) :
    (ridxField v ++ opcField v).setWidth 32 = v := by
  have hr' := (rsvField_eq_zero_iff v).1 hr
  apply BitVec.eq_of_toNat_eq
  rw [BitVec.toNat_setWidth, Machine.toNat_append_eq_add, toNat_ridxField hr', toNat_opcField]
  omega

/-- R82: the decoder answers a command when the opcode is legal, no reserved bit is set and the index check passes. -/
theorem decode_eq_ok_iff {v : Word} {i : Instr} : decode v = .ok i ↔
    ∃ use, opcodeMap (opcField v) = some use ∧ rsvField v = 0 ∧ checkRidx use (ridxField v) = .ok i := by
  unfold decode
  split
  · rename_i ho
    simp [ho]
  · rename_i use ho
    split_ifs with hr <;> simp only [ho, hr, Option.some.injEq, exists_eq_left', true_and, false_and]

/-- What command i makes of the index (R73). -/
def Instr.ridxUse (i : Instr) : RidxUse :=
  match i with
  | .ark _ => .anyKey .ark
  | .round _ => .middle .round
  | .iround _ => .middle .iround
  | i => .unused i

/-- R74: each command's row of the opcode map. -/
theorem opcodeMap_opc (i : Instr) : opcodeMap i.opc = some i.ridxUse := by
  cases i <;> rfl

theorem checkRidx_anyKey_ofNat (i : Fin 11 → Instr) (k : Fin 11) :
    checkRidx (.anyKey i) (BitVec.ofNat 4 k.val) = .ok (i k) := by
  have hk : (BitVec.ofNat 4 k.val).toNat = k.val := by simp; omega
  simp [checkRidx, hk]

theorem checkRidx_middle_ofNat (i : Fin 11 → Instr) {k : Fin 11} (h : MiddleRound k) :
    checkRidx (.middle i) (BitVec.ofNat 4 k.val) = .ok (i k) := by
  have hk : (BitVec.ofNat 4 k.val).toNat = k.val := by simp; omega
  simp [checkRidx, hk, h]

/-- R73: the index of a well-formed command passes the check. -/
theorem checkRidx_ridx {i : Instr} (hw : i.WellFormed) : checkRidx i.ridxUse i.ridx = .ok i := by
  cases i with
  | ark k => exact checkRidx_anyKey_ofNat .ark k
  | round k => exact checkRidx_middle_ofNat .round (of_decide_eq_true hw)
  | iround k => exact checkRidx_middle_ofNat .iround (of_decide_eq_true hw)
  | _ => rfl

/-- Settles O1: the fields of the encoding are the command's opcode and index, which the decoder's checks pass. -/
theorem decodeOfEncode : Obligations.DecodeOfEncode := by
  intro i hw
  obtain ⟨ho, hk, hr⟩ := encode_fields i
  exact decode_eq_ok_iff.2 ⟨i.ridxUse, ho ▸ opcodeMap_opc i, hr, hk ▸ checkRidx_ridx hw⟩

/-- R74: the rows of the opcode map: a command without an index, ARK, ROUND or IROUND. -/
theorem opcodeMap_eq_some {o : BitVec 8} {use : RidxUse} (h : opcodeMap o = some use) :
    (∃ i, use = .unused i ∧ i.opc = o ∧ i.ridx = 0 ∧ i.WellFormed) ∨ (use = .anyKey .ark ∧ o = 0x14) ∨
      (use = .middle .round ∧ o = 0x30) ∨ (use = .middle .iround ∧ o = 0x32) := by
  unfold opcodeMap at h
  split at h
  case h_9 => exact .inr (.inl ⟨(Option.some.inj h).symm, rfl⟩)
  case h_11 => exact .inr (.inr (.inl ⟨(Option.some.inj h).symm, rfl⟩))
  case h_13 => exact .inr (.inr (.inr ⟨(Option.some.inj h).symm, rfl⟩))
  case h_17 => cases h
  all_goals exact .inl ⟨_, (Option.some.inj h).symm, rfl, rfl, rfl⟩

theorem checkRidx_unused_eq_ok {i j : Instr} {k : BitVec 4} (h : checkRidx (.unused j) k = .ok i) : j = i ∧ k = 0 := by
  rw [checkRidx] at h
  split_ifs at h with hk
  exact ⟨Except.ok.inj h, hk⟩

theorem checkRidx_anyKey_eq_ok {i : Instr} {f : Fin 11 → Instr} {k : BitVec 4} (h : checkRidx (.anyKey f) k = .ok i) :
    ∃ n : Fin 11, f n = i ∧ BitVec.ofNat 4 n.val = k := by
  rw [checkRidx] at h
  split_ifs at h with hk
  exact ⟨_, Except.ok.inj h, (k.ofNat_toNat 4).trans k.setWidth_eq⟩

theorem checkRidx_middle_eq_ok {i : Instr} {f : Fin 11 → Instr} {k : BitVec 4} (h : checkRidx (.middle f) k = .ok i) :
    ∃ n : Fin 11, f n = i ∧ BitVec.ofNat 4 n.val = k ∧ MiddleRound n := by
  rw [checkRidx] at h
  split_ifs at h with hk hm
  exact ⟨_, Except.ok.inj h, (k.ofNat_toNat 4).trans k.setWidth_eq, hm⟩

/-- The decoder's checks answer a well-formed command only, with its own opcode and index. -/
theorem fields_of_checkRidx {o : BitVec 8} {use : RidxUse} {k : BitVec 4} {i : Instr} (ho : opcodeMap o = some use)
    (hk : checkRidx use k = .ok i) : i.WellFormed ∧ i.opc = o ∧ i.ridx = k := by
  obtain ⟨j, rfl, hopc, hridx, hw⟩ | ⟨rfl, rfl⟩ | ⟨rfl, rfl⟩ | ⟨rfl, rfl⟩ := opcodeMap_eq_some ho
  · obtain ⟨rfl, rfl⟩ := checkRidx_unused_eq_ok hk
    exact ⟨hw, hopc, hridx⟩
  · obtain ⟨n, rfl, rfl⟩ := checkRidx_anyKey_eq_ok hk
    exact ⟨rfl, rfl, rfl⟩
  · obtain ⟨n, rfl, rfl, hn⟩ := checkRidx_middle_eq_ok hk
    exact ⟨decide_eq_true hn, rfl, rfl⟩
  · obtain ⟨n, rfl, rfl, hn⟩ := checkRidx_middle_eq_ok hk
    exact ⟨decide_eq_true hn, rfl, rfl⟩

/-- Settles O2: the word is made of the fields the decoder's checks compare with the command's own. -/
theorem encodeOfDecode : Obligations.EncodeOfDecode := by
  intro v i h
  obtain ⟨use, ho, hr, hk⟩ := decode_eq_ok_iff.1 h
  obtain ⟨hw, hopc, hridx⟩ := fields_of_checkRidx ho hk
  refine ⟨hw, ?_⟩
  rw [encode, hopc, hridx, setWidth_ridxField_append_opcField hr]

/-- R84: each listed word is the encoding of its well-formed command. -/
theorem encode_of_mem_specWords : ∀ p ∈ Machine.specWords, p.2.WellFormed ∧ encode p.2 = p.1 := by
  decide

/-- R84: every well-formed command has its word in the list. -/
theorem mem_specWords_of_wellFormed {i : Instr} (hw : i.WellFormed) : (encode i, i) ∈ Machine.specWords := by
  cases i with
  | ark k => revert k; decide
  | round k => revert k; decide
  | iround k => revert k; decide
  | _ => decide

/-- Settles O4: the list holds the encodings of the well-formed commands, which are the words that decode. -/
theorem legalCommandWords : Obligations.LegalCommandWords := by
  refine ⟨rfl, by decide, fun v i => ⟨fun h => ?_, fun h => ?_⟩⟩
  · obtain ⟨hw, rfl⟩ := encodeOfDecode v i h
    exact mem_specWords_of_wellFormed hw
  · obtain ⟨hw, rfl⟩ : i.WellFormed ∧ encode i = v := encode_of_mem_specWords _ h
    exact decodeOfEncode i hw

/-- Settles O5: each word by evaluation of the decoder. -/
theorem sampleWordsDecode : Obligations.SampleWordsDecode :=
  ⟨rfl, rfl, rfl, rfl, rfl, rfl, rfl, rfl, rfl, rfl, rfl, rfl, rfl, rfl⟩

end Sys2Proof

/-! Every step answers a next state, uses up its turn and keeps the invariant (10_state.md R27, R34, R41, R42; 30_encoding.md
R91; 70_reset_and_hazards.md R252). The four parts of the invariant are kept one by one: the flags, the keys and the
pending command by the cases of `StepTo`, the host's variables by the statements of the host. -/

namespace Sys2Proof.Machine

/-! What a completion leaves of the other registers. -/

@[simp] theorem effectOf_key (i : Instr) (x : Snapshot) (s : State) : (effectOf i x s).key = s.key := by
  simp [effectOf_frame]

@[simp] theorem effectOf_gfA (i : Instr) (x : Snapshot) (s : State) : (effectOf i x s).gfA = s.gfA := by
  simp [effectOf_frame]

@[simp] theorem effectOf_gfB (i : Instr) (x : Snapshot) (s : State) : (effectOf i x s).gfB = s.gfB := by
  simp [effectOf_frame]

@[simp] theorem effectOf_draws (i : Instr) (x : Snapshot) (s : State) : (effectOf i x s).draws = s.draws := by
  simp [effectOf_frame]

@[simp] theorem effectOf_host (i : Instr) (x : Snapshot) (s : State) : (effectOf i x s).host = s.host := by
  simp [effectOf_frame]

@[simp] theorem effectOf_sched (i : Instr) (x : Snapshot) (s : State) : (effectOf i x s).sched = s.sched := by
  simp [effectOf_frame]

/-- R26: no command but KEYEXP writes RK. -/
theorem effectOf_rk_of_ne (i : Instr) (x : Snapshot) (s : State) (hi : i ≠ .keyexp) : (effectOf i x s).rk = s.rk := by
  cases i with
  | keyexp => exact absurd rfl hi
  | _ => rfl

/-! Every step answers. -/

theorem command_answers (i : Instr) (f : Snapshot → State → State) (s : State) : ∃ t, command i f s = .next t := by
  unfold command
  split
  · split <;> exact ⟨_, rfl⟩
  · split <;> exact ⟨_, rfl⟩

theorem exec_answers (i : Instr) (s : State) : ∃ t, exec i s = .next t :=
  exec_eq_command i s ▸ command_answers i _ s

/-- Settles O8: what a step asks for is a state, or a command, and every command answers. -/
theorem stepAlwaysAnswers : Obligations.StepAlwaysAnswers := by
  intro s
  unfold step
  split
  · exact ⟨_, rfl⟩
  · exact exec_answers _ _

/-- A step uses up the first turn of the schedule. -/
theorem stepTo_sched {s t : State} (h : StepTo s t) : t.sched = s.sched.tail := by
  cases h with
  | writesStatus v => split <;> rfl
  | _ => simp

/-- Past the end of the schedule the next step completes a pending command. -/
theorem step_completes_of_sched_nil {s : State} (hs : s.sched = []) (hp : s.pend ≠ none) :
    ∃ t, step s = .next t ∧ t.pend = none := by
  obtain ⟨⟨i, x⟩, hx⟩ := Option.ne_none_iff_exists'.1 hp
  have ht : s.turn = .sequencer := by rw [turn_of_sched_nil hs, if_neg hp]
  exact ⟨_, step_completes ht hx, rfl⟩

/-- Settles O9, by induction on the schedule: its last turn gone, the sequencer completes the command. -/
theorem pendingCommandEnds : Obligations.PendingCommandEnds := by
  intro s
  induction hs : s.sched generalizing s with
  | nil =>
    by_cases hp : s.pend = none
    · exact ⟨0, s, by simp, run_zero s, hp⟩
    · obtain ⟨t, ht, htp⟩ := step_completes_of_sched_nil hs hp
      exact ⟨1, t, by simp, (run_succ 0 ht).trans (run_zero t), htp⟩
  | cons turn rest ih =>
    obtain ⟨t, ht⟩ := stepAlwaysAnswers s
    obtain ⟨n, u, hn, hrun, hu⟩ := ih t (by rw [stepTo_sched (stepTo_of_step ht), hs, List.tail_cons])
    exact ⟨n + 1, u, by simpa using hn, (run_succ n ht).trans hrun, hu⟩

/-! The flags. -/

theorem code_bounds (e : ErrCode) : 1 ≤ e.code.toNat ∧ e.code.toNat ≤ 6 := by
  cases e <;> decide

theorem errorOk_raise {s : State} (e : ErrCode) (h : s.ErrorOk) : (raise e s).ErrorOk := by
  cases he : s.err with
  | true => simpa [State.ErrorOk, he] using h
  | false => simpa [State.ErrorOk, he] using code_bounds e

theorem errorOk_of_cleared {s : State} (he : s.err = false) (hc : s.errCode = 0) : s.ErrorOk := by
  simp [State.ErrorOk, he, hc]

theorem errorOk_congr {s t : State} (he : t.err = s.err) (hc : t.errCode = s.errCode) (h : s.ErrorOk) : t.ErrorOk := by
  unfold State.ErrorOk
  rwa [he, hc]

/-- R206, R210: a step records one of the six codes, keeps the error, or clears it. -/
theorem stepTo_errorOk {s t : State} (hs : s.ErrorOk) (h : StepTo s t) : t.ErrorOk := by
  cases h with
  | reset => exact errorOk_of_cleared rfl rfl
  | rejected a v e => exact errorOk_raise e (errorOk_congr (s := s) rfl rfl hs)
  | writesStatus v =>
    split
    · exact errorOk_of_cleared rfl rfl
    · exact errorOk_congr (s := s) rfl rfl hs
  | completes i x => exact errorOk_congr (s := s) (by simp) (by simp) hs
  | _ => exact errorOk_congr (s := s) rfl rfl hs

/-! The keys. -/

theorem keyOk_of_not_valid {s : State} (h : s.keyValid = false) : s.KeyOk :=
  fun h' => absurd (h.symm.trans h') Bool.false_ne_true

theorem keyOk_congr {s t : State} (hv : t.keyValid = s.keyValid) (hr : t.rk = s.rk) (hk : t.key = s.key)
    (h : s.KeyOk) : t.KeyOk := by
  unfold State.KeyOk
  rwa [hv, hr, hk]

/-- R27: KEYEXP expands the key its snapshot holds, and while it was pending KEY has not changed; a KEY write clears
KEYVALID. -/
theorem stepTo_keyOk {s t : State} (hs : s.KeyOk) (hpend : s.PendOk) (h : StepTo s t) : t.KeyOk := by
  cases h with
  | reset => exact keyOk_of_not_valid rfl
  | writesKey => exact keyOk_of_not_valid rfl
  | completes i x ht hp =>
    by_cases hi : i = .keyexp
    · subst hi
      obtain ⟨-, rfl, -⟩ := hpend _ hp
      exact fun _ => rfl
    · exact keyOk_congr (s := s) (effectOf_keyValid_of_ne i x (dropTurn s) hi) (effectOf_rk_of_ne i x (dropTurn s) hi)
        (by simp) hs
  | rejected => exact keyOk_congr (s := s) (by simp) (by simp) (by simp) hs
  | writesStatus v => exact keyOk_congr (s := s) (by split <;> rfl) (by split <;> rfl) (by split <;> rfl) hs
  | _ => exact keyOk_congr (s := s) rfl rfl rfl hs

/-! The pending command. -/

theorem pendOk_of_none {s : State} (h : s.pend = none) : s.PendOk := by
  simp [State.PendOk, h]

theorem pendOk_congr {s t : State} (hp : t.pend = s.pend) (hsnap : Snapshot.of t = Snapshot.of s)
    (hv : t.keyValid = s.keyValid) (h : s.PendOk) : t.PendOk := by
  unfold State.PendOk
  rwa [hp, hsnap, hv]

/-- R90: the issue checks and the snapshot are what the invariant asks of an accepted command. -/
theorem pendOk_accept {i : Instr} {s : State} (h : issueError i s = none) : (accept i s).PendOk := by
  intro p hp
  cases hp
  obtain ⟨hw, hk⟩ := (issueError_eq_none_iff i s).1 h
  exact ⟨hw, rfl, hk⟩

/-- R206: recording an error leaves the operand registers. -/
theorem snapshot_raise (e : ErrCode) (s : State) : Snapshot.of (raise e s) = Snapshot.of s :=
  snapshot_congr _ _ (raise_st e s) (raise_key e s) (raise_rk e s) (raise_gfA e s) (raise_gfB e s)

/-- R42: a data register is written only while nothing is pending, or by the completion that clears PEND. -/
theorem stepTo_pendOk {s t : State} (hs : s.PendOk) (h : StepTo s t) : t.PendOk := by
  cases h with
  | reset => exact pendOk_of_none rfl
  | completes => exact pendOk_of_none rfl
  | writesState _ _ _ _ hp => exact pendOk_of_none hp
  | writesKey _ _ _ _ hp => exact pendOk_of_none hp
  | writesGfA _ _ _ hp => exact pendOk_of_none hp
  | writesGfB _ _ _ hp => exact pendOk_of_none hp
  | accepted a v i ht hp hw ha hd hi => exact pendOk_accept hi
  | rejected a v e => exact pendOk_congr (s := s) (raise_pend e _) (snapshot_raise e _) (raise_keyValid e _) hs
  | writesStatus v =>
    split <;> exact pendOk_congr (s := s) rfl rfl rfl hs
  | _ => exact pendOk_congr (s := s) rfl rfl rfl hs

/-! The host's variables. -/

/-- The state an action leaves or runs its command in. -/
def Action.state (x : Action) : State :=
  match x with
  | .settled t => t
  | .run _ t => t

/-- A host write makes no change to the host. -/
theorem memWrite_host (a : WordAddr) (v : Word) (s : State) : (memWrite a v s).state.host = s.host := by
  obtain ⟨e, hm⟩ | ⟨-, hm⟩ | ⟨-, ⟨c, -, hm⟩ | ⟨w, -, hm⟩ | ⟨-, hm⟩ | ⟨-, hm⟩ | ⟨i, -, -, hm⟩⟩ := memWrite_cases a v s
  case inr.inl =>
    rw [hm]
    change (if clearBit v then clearError s else s).host = s.host
    split <;> rfl
  all_goals simp [hm, Action.state]

theorem varsOk_congr {s t : State} (hh : t.host.vars = s.host.vars) (h : s.VarsOk) : t.VarsOk := by
  unfold State.VarsOk
  rwa [hh]

theorem portWrite_host (live : Bool) (a : WordAddr) (v : Word) (s : State) :
    (portWrite live a v s).state.host = s.host := by
  cases live with
  | true => exact memWrite_host a v s
  | false => rfl

theorem portRead_host (live : Bool) (a : WordAddr) (s : State) : (portRead live a s).2.host = s.host := by
  cases live with
  | true =>
    change (memRead a s).2.host = s.host
    obtain h | ⟨-, h⟩ := memRead_snd a s <;> rw [h]
  | false => rfl

theorem varsOk_setHostVar {s : State} (n : Nat) (v : Word) (h : s.VarsOk) : (setHostVar n v s).VarsOk :=
  varsWf_insertVar s.host.vars n v h

/-- R86: a statement of the host writes at most one variable. -/
theorem hostStmt_varsOk (live : Bool) (c : HostStmt) {s : State} (h : s.VarsOk) : (hostStmt live c s).state.VarsOk := by
  cases c with
  | wr a v => exact varsOk_congr (congrArg HostAgent.vars (portWrite_host live a v (hostNext s))) h
  | wrv a n => exact varsOk_congr (congrArg HostAgent.vars (portWrite_host live a (hostVar s n) (hostNext s))) h
  | rd a n =>
    have hr : (portRead live a s).2.VarsOk := varsOk_congr (congrArg HostAgent.vars (portRead_host live a s)) h
    exact varsOk_setHostVar n _ (s := hostNext (portRead live a s).2) hr
  | bnz n k =>
    change (if hostVar s n ≠ 0 then hostGoto k s else hostNext s).VarsOk
    split <;> exact h
  | bz n k =>
    change (if hostVar s n = 0 then hostGoto k s else hostNext s).VarsOk
    split <;> exact h
  | halt => exact h
  | _ => exact varsOk_setHostVar _ _ (varsOk_congr (s := s) rfl h)

theorem hostMove_varsOk (live : Bool) {s : State} (h : s.VarsOk) : (hostMove live s).state.VarsOk := by
  unfold hostMove
  split
  · exact h
  · exact hostStmt_varsOk live _ h

theorem fetch_varsOk {s : State} (h : s.VarsOk) : (fetch s).state.VarsOk := by
  unfold fetch
  split
  · exact hostMove_varsOk true (s := dropTurn s) h
  · unfold sequencerMove
    split <;> exact h
  · exact h
  · exact hostMove_varsOk false (s := resetBlock (dropTurn s)) h

/-- What rejection, accept and completion all leave, a command leaves. -/
theorem exec_keeps {α : Type} {f : State → α} {i : Instr} {s t : State} (h : exec i s = .next t)
    (hraise : ∀ e, f (raise e s) = f s) (haccept : f (accept i s) = f s)
    (hcomplete : ∀ x, f (retire (effectOf i x s)) = f s) : f t = f s := by
  obtain ⟨e, rfl⟩ | ⟨-, -, rfl⟩ | ⟨x, -, rfl⟩ := exec_cases h
  · exact hraise e
  · exact haccept
  · exact hcomplete x

theorem exec_host {i : Instr} {s t : State} (h : exec i s = .next t) : t.host = s.host :=
  exec_keeps (f := State.host) h (by simp) (by simp) (by simp)

theorem step_varsOk {s t : State} (hs : s.VarsOk) (h : step s = .next t) : t.VarsOk := by
  have hf := fetch_varsOk hs
  unfold step at h
  split at h
  · rename_i u hu
    obtain rfl := Host.Outcome.next.inj h
    rwa [hu] at hf
  · rename_i i u hu
    rw [hu] at hf
    exact varsOk_congr (congrArg HostAgent.vars (exec_host h)) hf

/-- Settles O55: each part of the invariant is kept, the keys with the help of the pending command's snapshot. -/
theorem everyStepKeepsInvariant : Obligations.EveryStepKeepsInvariant := by
  intro s t ⟨herr, hkey, hpend, hvars⟩ h
  have hst := stepTo_of_step h
  exact ⟨stepTo_errorOk herr hst, stepTo_keyOk hkey hpend hst, stepTo_pendOk hpend hst, step_varsOk hvars h⟩

/-- Settles O56: nothing is recorded, valid, pending or written after reset. -/
theorem resetMeetsInvariant : Obligations.ResetMeetsInvariant :=
  ⟨errorOk_of_cleared rfl rfl, keyOk_of_not_valid rfl, pendOk_of_none rfl, rfl⟩

/-! What writes KEY and RK, and what becomes of a pending command. -/

/-- R26, R230: RK is written by the completion of KEYEXP and by reset. -/
theorem stepTo_rk {s t : State} (h : StepTo s t) (hne : t.rk ≠ s.rk) :
    (s.turn = .sequencer ∧ ∃ x, s.pend = some ⟨.keyexp, x⟩ ∧ t.rk = keySchedule x.key) ∨
    ((s.turn = .reset ∨ s.turn = .hostInReset) ∧ t.rk = Vector.replicate 11 .zero) := by
  cases h with
  | reset _ _ ht => exact .inr ⟨ht, rfl⟩
  | completes i x ht hp =>
    by_cases hi : i = .keyexp
    · subst hi
      exact .inl ⟨ht, x, hp, rfl⟩
    · exact absurd (effectOf_rk_of_ne i x (dropTurn s) hi) hne
  | writesStatus v => exact absurd (by split <;> rfl) hne
  | _ => exact absurd (by simp) hne

/-- R24, R230: KEY is written by a KEY write of the host and by reset. -/
theorem stepTo_key {s t : State} (h : StepTo s t) (hne : t.key ≠ s.key) :
    (s.turn = .host ∧ s.pend = none ∧ ∃ a w d, regAt a = .key w ∧ HostWrites s a d ∧ t.key = setKeyWord s.key w d) ∨
    ((s.turn = .reset ∨ s.turn = .hostInReset) ∧ t.key = .zero) := by
  cases h with
  | reset _ _ ht => exact .inr ⟨ht, rfl⟩
  | writesKey a v w ht hp hw ha => exact .inl ⟨ht, hp, a, w, v, ha, hw, rfl⟩
  | writesStatus v => exact absurd (by split <;> rfl) hne
  | _ => exact absurd (by simp) hne

/-- Settles O53, by the cases of `StepTo`. -/
theorem roundKeysWrittenByKeyexp : Obligations.RoundKeysWrittenByKeyexp :=
  fun _ _ h => stepTo_rk (stepTo_of_step h)

/-- Settles O54, by the cases of `StepTo`. -/
theorem keyWrittenByHostOnly : Obligations.KeyWrittenByHostOnly :=
  fun _ _ h => stepTo_key (stepTo_of_step h)

/-- R231: while the host moves, a pending command stays. -/
theorem stepTo_pend_of_host {s t : State} {p : Pending} (ht : s.turn = .host) (hp : s.pend = some p) (h : StepTo s t) :
    t.pend = some p := by
  cases h with
  | writesStatus v => split <;> exact hp
  | _ => simp_all

/-- R230, R231: what a reset edge leaves of the block, the host, the draws and the turns. -/
theorem step_reset_frame {s : State} (ht : s.turn = .reset ∨ s.turn = .hostInReset) :
    ∃ t, step s = .next t ∧ t.pend = none ∧ SameBlock State.reset t ∧ t.draws = s.draws ∧ t.sched = s.sched.tail ∧
      t.host.prog = s.host.prog ∧ (s.turn = .reset → t.host = s.host) := by
  obtain ht | ht := ht
  · exact ⟨_, step_reset ht, rfl, resetBlock_sameBlock _, rfl, rfl, rfl, fun _ => rfl⟩
  · obtain ⟨t, -, hs, hu⟩ := step_hostInReset ht
    have hne : s.turn = .reset → t.host = s.host := fun h => nomatch ht.symm.trans h
    exact ⟨t, hs, hu ▸ rfl, hu ▸ resetBlock_sameBlock (dropTurn s), hu ▸ rfl, hu ▸ rfl, hu ▸ rfl, hne⟩

/-- Settles O58: the reset edge by `step_reset_frame`, the pending command by whose turn it is. -/
theorem resetAbortsPending : Obligations.ResetAbortsPending := by
  refine ⟨fun s => step_reset_frame, fun s t p hp h => ?_⟩
  cases ht : s.turn with
  | host => exact .inl (stepTo_pend_of_host ht hp (stepTo_of_step h))
  | sequencer => exact .inr (.inl ⟨rfl, (step_sequencer ht hp).symm.trans h⟩)
  | reset => exact .inr (.inr (.inl rfl))
  | hostInReset => exact .inr (.inr (.inr rfl))

end Sys2Proof.Machine

/-! The laws of the field (40_field.md R108, R110, R111). The product adds the doublings of one factor at the set bits of the
other; doubling is additive, so the product is linear in each factor and takes a doubling of its right factor outside, and
associativity follows. -/

namespace Sys2Proof

@[simp] theorem xtime_zero : xtime 0#8 = 0#8 := rfl

theorem iterate_xtime_xor (i : Nat) (a b : Byte) : xtime^[i] (a ^^^ b) = xtime^[i] a ^^^ xtime^[i] b := by
  induction i generalizing a b with
  | zero => rfl
  | succ i ih => rw [Function.iterate_succ_apply, xtime_xor, ih]; rfl

/-- R111: the product is additive in its right factor. -/
theorem gfmul_xor_right (c a b : Byte) : gfmul c (a ^^^ b) = gfmul c a ^^^ gfmul c b := by
  simp only [gfmul_eq_addSelected_left, iterate_xtime_xor]
  exact addSelected_xor c _ _ 0 0 _

/-- R111: the product is additive in its left factor. -/
theorem gfmul_xor_left (a b c : Byte) : gfmul (a ^^^ b) c = gfmul a c ^^^ gfmul b c := by
  rw [gfmul_comm, gfmul_xor_right, gfmul_comm c, gfmul_comm c]

theorem gfmul_zero_right (a : Byte) : gfmul a 0 = 0 := by
  have h : gfmul a (0 ^^^ 0) = 0 := by rw [gfmul_xor_right, BitVec.xor_self]; rfl
  exact h

theorem gfmul_one_right (a : Byte) : gfmul a 1 = a := by
  rw [gfmul_comm, gfmul_one_left]

theorem gfmul_xtime (a b : Byte) : gfmul a (xtime b) = xtime (gfmul a b) := by
  simp only [gfmul_eq_addSelected_left]
  rw [map_addSelected xtime_xor, show xtime (0 : Byte) = 0 from xtime_zero]
  simp only [← Function.iterate_succ_apply', Function.iterate_succ_apply]

theorem gfmul_iterate_xtime (i : Nat) (a b : Byte) : gfmul a (xtime^[i] b) = xtime^[i] (gfmul a b) := by
  induction i with
  | zero => rfl
  | succ i ih => rw [Function.iterate_succ_apply', gfmul_xtime, ih, Function.iterate_succ_apply']

/-- The product goes inside the sum of doublings, so two right factors of it exchange. -/
theorem gfmul_left_comm (a b c : Byte) : gfmul a (gfmul b c) = gfmul b (gfmul a c) := by
  rw [gfmul_eq_addSelected_left b, map_addSelected (gfmul_xor_right a), gfmul_eq_addSelected_left b, gfmul_zero_right]
  simp only [gfmul_iterate_xtime]

theorem gfmul_assoc (a b c : Byte) : gfmul (gfmul a b) c = gfmul a (gfmul b c) := by
  rw [gfmul_comm, gfmul_left_comm, gfmul_comm c]

/-! Every non-zero byte has an inverse: it is a power of 0x03, and the powers of 0x03 repeat after 255 places. -/

/-- The powers of 0x03 in the field. -/
def powThree (k : Nat) : Byte := (gfmul 3)^[k] 1

theorem powThree_add (j k : Nat) : powThree (j + k) = gfmul (powThree j) (powThree k) := by
  induction j with
  | zero => rw [Nat.zero_add, show powThree 0 = 1 from rfl, gfmul_one_left]
  | succ j ih =>
    simp only [powThree] at ih ⊢
    rw [Nat.succ_add, Function.iterate_succ_apply', Function.iterate_succ_apply', ih, gfmul_assoc]

theorem gfmul_three_eq : gfmul 3 = fun a => xtime a ^^^ a :=
  funext gfmul_three_left

theorem powThree_255 : powThree 255 = 1 := by
  rw [powThree, gfmul_three_eq]
  decide +kernel

/-- No earlier power of 0x03 is 1: a shorter period would divide 255 over one of its prime factors 3, 5 and 17. -/
theorem minimalPeriod_gfmul_three : Function.minimalPeriod (gfmul 3) 1 = 255 := by
  have hdvd : Function.minimalPeriod (gfmul 3) 1 ∣ 255 := Function.IsPeriodicPt.minimalPeriod_dvd powThree_255
  have hdiv : ∀ m ∈ Nat.divisors 255, m = 255 ∨ m ∣ 85 ∨ m ∣ 51 ∨ m ∣ 15 := by decide +kernel
  have hper {n : Nat} (h : Function.minimalPeriod (gfmul 3) 1 ∣ n) : powThree n = 1 :=
    Function.isPeriodicPt_iff_minimalPeriod_dvd.2 h
  have hne : powThree 85 ≠ 1 ∧ powThree 51 ≠ 1 ∧ powThree 15 ≠ 1 := by
    simp only [powThree, gfmul_three_eq]
    decide +kernel
  obtain ⟨h85, h51, h15⟩ := hne
  obtain h | h | h | h := hdiv _ (Nat.mem_divisors.2 ⟨hdvd, by decide⟩)
  · exact h
  · exact absurd (hper h) h85
  · exact absurd (hper h) h51
  · exact absurd (hper h) h15

theorem powThree_ne_zero {k : Nat} (hk : k ≤ 255) : powThree k ≠ 0 := by
  intro h
  have h1 : powThree (255 - k + k) = 0 := by rw [powThree_add, h, gfmul_zero_right]
  rw [Nat.sub_add_cancel hk, powThree_255] at h1
  exact absurd h1 (by decide)

/-- The 255 powers are 255 different non-zero bytes, so they are all of them. -/
theorem exists_powThree_eq {a : Byte} (ha : a ≠ 0) : ∃ k < 255, powThree k = a := by
  have hmaps : Set.MapsTo (fun k => (powThree k).toNat) (Finset.range 255) (Finset.Ioo 0 256) := by
    intro k hk
    have hk : k < 255 := by simpa using hk
    have h0 : (powThree k).toNat ≠ 0 := fun h => powThree_ne_zero hk.le (BitVec.eq_of_toNat_eq h)
    simpa [Nat.pos_iff_ne_zero, h0] using (powThree k).isLt
  have hinj : Set.InjOn (fun k => (powThree k).toNat) (Finset.range 255) := by
    have hlt {k : Nat} (hk : k ∈ (Finset.range 255 : Set Nat)) : k ∈ Set.Iio (Function.minimalPeriod (gfmul 3) 1) := by
      rw [minimalPeriod_gfmul_three]
      simpa using hk
    exact fun j hj k hk h => Function.iterate_injOn_Iio_minimalPeriod (hlt hj) (hlt hk) (BitVec.eq_of_toNat_eq h)
  have hsurj := Finset.surjOn_of_injOn_of_card_le _ hmaps hinj (by simp)
  have h0 : a.toNat ≠ 0 := fun h => ha (BitVec.eq_of_toNat_eq h)
  obtain ⟨k, hk, h⟩ := hsurj (show a.toNat ∈ _ by simpa [Nat.pos_iff_ne_zero, h0] using a.isLt)
  exact ⟨k, by simpa using hk, BitVec.eq_of_toNat_eq h⟩

theorem exists_gfmul_eq_one {a : Byte} (ha : a ≠ 0) : ∃ b, gfmul a b = 1 := by
  obtain ⟨k, hk, rfl⟩ := exists_powThree_eq ha
  refine ⟨powThree (255 - k), ?_⟩
  rw [← powThree_add, Nat.add_sub_cancel' hk.le, powThree_255]

theorem gfmul_inverse_unique {a b c : Byte} (hb : gfmul a b = 1) (hc : gfmul a c = 1) : c = b := by
  calc c = gfmul c (gfmul a b) := by rw [hb, gfmul_one_right]
    _ = gfmul b (gfmul a c) := by rw [gfmul_left_comm, gfmul_comm c, gfmul_left_comm]
    _ = b := by rw [hc, gfmul_one_right]

/-- Settles O11: the sums by the laws of XOR, the products by the lemmas above. -/
theorem fieldLaws : Obligations.FieldLaws := by
  refine ⟨fun a b => ⟨BitVec.xor_comm a b, gfmul_comm a b⟩,
    fun a b c => ⟨BitVec.xor_assoc a b c, gfmul_assoc a b c⟩, fun a b c => gfmul_xor_right a b c,
    fun a => ⟨BitVec.xor_zero, gfmul_zero_right a, gfmul_one_right a, BitVec.xor_self⟩, fun a ha => ?_⟩
  obtain ⟨b, hb⟩ := exists_gfmul_eq_one ha
  exact ⟨b, hb, fun c hc => gfmul_inverse_unique hb hc⟩

/-! R110: the constants 4, 9, 11, 13 and 14 are sums of powers of x. -/

theorem gfmul_four_left (a : Byte) : gfmul 4 a = xtime (xtime a) := by
  simp [gfmul_eq_addSelected_left, addSelected, List.range_succ]

theorem gfmul_eight_left (a : Byte) : gfmul 8 a = xtime (xtime (xtime a)) := by
  simp [gfmul_eq_addSelected_left, addSelected, List.range_succ]

theorem gfmul_nine_left (a : Byte) : gfmul 9 a = xtime (xtime (xtime a)) ^^^ a := by
  rw [show (9 : Byte) = 8 ^^^ 1 from rfl, gfmul_xor_left, gfmul_eight_left, gfmul_one_left]

theorem gfmul_eleven_left (a : Byte) : gfmul 11 a = xtime (xtime (xtime a)) ^^^ xtime a ^^^ a := by
  rw [show (11 : Byte) = 8 ^^^ 2 ^^^ 1 from rfl, gfmul_xor_left, gfmul_xor_left, gfmul_eight_left, gfmul_two_left,
    gfmul_one_left]

theorem gfmul_thirteen_left (a : Byte) : gfmul 13 a = xtime (xtime (xtime a)) ^^^ xtime (xtime a) ^^^ a := by
  rw [show (13 : Byte) = 8 ^^^ 4 ^^^ 1 from rfl, gfmul_xor_left, gfmul_xor_left, gfmul_eight_left, gfmul_four_left,
    gfmul_one_left]

theorem gfmul_fourteen_left (a : Byte) :
    gfmul 14 a = xtime (xtime (xtime a)) ^^^ xtime (xtime a) ^^^ xtime a := by
  rw [show (14 : Byte) = 8 ^^^ 4 ^^^ 2 from rfl, gfmul_xor_left, gfmul_xor_left, gfmul_eight_left, gfmul_four_left,
    gfmul_two_left]

/-- Settles O12: the constant products and the linearity one by one. -/
theorem fieldFunctionsLinear : Obligations.FieldFunctionsLinear :=
  ⟨fun a => ⟨gfmul_one_left a, gfmul_two_left a, gfmul_three_left a, gfmul_four_left a, gfmul_nine_left a,
      gfmul_eleven_left a, gfmul_thirteen_left a, gfmul_fourteen_left a⟩,
    fun a b c => ⟨gfmul_xor_left a b c, gfmul_xor_right c a b⟩, xtime_xor⟩

end Sys2Proof

/-! The wirings of the block and of the rows (00_scope.md R13, 41_shiftrows.md R124, R125), the inverse matrix of the column
mix and its linearity (42_mixcolumns.md R133, R138), and the inverse round (44_rounds.md R176). Each is shown byte by byte or
column by column. -/

namespace Sys2Proof

@[simp] theorem load_get (blk : Block) (r c : Fin 4) : (load blk).get r c = blk[4 * c.val + r.val] :=
  Mat.get_ofFn _ r c

/-- R13: storing what was loaded. -/
theorem store_load (blk : Block) : store (load blk) = blk := by
  refine Vector.ext fun n hn => ?_
  have h := getElem_store (load blk) ⟨n, hn⟩
  rw [load_get] at h
  simpa [Nat.div_add_mod] using h

/-- R13: loading what was stored. -/
theorem load_store (S : Mat) : load (store S) = S := by
  refine Mat.ext_get fun r c => ?_
  have h := getElem_store S ⟨4 * c.val + r.val, by omega⟩
  rw [load_get]
  refine h.trans ?_
  congr 1
  · exact Fin.ext (show (4 * c.val + r.val) % 4 = r.val by omega)
  · exact Fin.ext (show (4 * c.val + r.val) / 4 = c.val by omega)

/-- R124: PSR is where the row rotation takes each byte of the block from. -/
theorem psr_eq (n : Fin 16) : (Machine.psr[n]).val =
    4 * ((⟨n.val / 4, by omega⟩ : Fin 4) + ⟨n.val % 4, by omega⟩).val + n.val % 4 := by
  revert n; decide

/-- R124: PISR is where the inverse row rotation takes each byte of the block from. -/
theorem pisr_eq (n : Fin 16) : (Machine.pisr[n]).val =
    4 * ((⟨n.val / 4, by omega⟩ : Fin 4) - ⟨n.val % 4, by omega⟩).val + n.val % 4 := by
  revert n; decide

/-- Settles O13: a rotated block byte by byte, where PSR and PISR are the rotations' sources. -/
theorem blockWirings : Obligations.BlockWirings := by
  refine ⟨store_load, load_store, getElem_store, fun blk n => ⟨?_, ?_⟩⟩
  · rw [getElem_store, shiftRows_get, load_get]
    exact getElem_congr_idx (psr_eq n).symm
  · rw [getElem_store, invShiftRows_get, load_get]
    exact getElem_congr_idx (pisr_eq n).symm

/-! The row rotations. -/

@[simp] theorem mapBytes_get (f : Byte → Byte) (S : Mat) (r c : Fin 4) :
    (Machine.mapBytes f S).get r c = f (S.get r c) :=
  Mat.get_ofFn _ r c

theorem shiftRows_four (S : Mat) : shiftRows (shiftRows (shiftRows (shiftRows S))) = S := by
  have hadd : ∀ r c : Fin 4, c + r + r + r + r = c := by decide
  exact Mat.ext_get fun r c => by simp [hadd]

/-- R125: rotating twice moves every byte of row 1 and row 3 by two columns. -/
theorem shiftRows_shiftRows_ne {S : Mat} {c : Fin 4}
    (h : S.get 1 c ≠ S.get 1 (c + 2) ∨ S.get 3 c ≠ S.get 3 (c + 2)) : shiftRows (shiftRows S) ≠ S := by
  intro he
  have hget (r : Fin 4) : S.get r (c + r + r) = S.get r c := by
    conv_rhs => rw [← he]
    simp
  obtain h | h := h
  · exact h (by rw [← hget 1, add_assoc]; rfl)
  · exact h (by rw [← hget 3, add_assoc]; rfl)

theorem invShiftRows_invShiftRows_ne {S : Mat} (h : shiftRows (shiftRows S) ≠ S) :
    invShiftRows (invShiftRows S) ≠ S := by
  intro he
  refine h ?_
  conv_lhs => rw [← he]
  simp

/-- The state whose byte of row 1 and column 0 is 1, the rest 0. -/
def markedState : Mat := ⟨⟨0, 1, 0, 0⟩, .zero, .zero, .zero⟩

theorem shiftRows_shiftRows_markedState_ne : shiftRows (shiftRows markedState) ≠ markedState :=
  shiftRows_shiftRows_ne (c := 0) (.inl (by decide))

/-- Settles O14: byte by byte, with `markedState` as the state two rotations move. -/
theorem rowRotationProperties : Obligations.RowRotationProperties := by
  refine ⟨fun S => ⟨invShiftRows_shiftRows S, shiftRows_invShiftRows S⟩,
    ⟨markedState, shiftRows_shiftRows_markedState_ne⟩,
    ⟨markedState, invShiftRows_invShiftRows_ne shiftRows_shiftRows_markedState_ne⟩,
    fun S c => shiftRows_shiftRows_ne, shiftRows_four, fun S r c => ⟨shiftRows_get S r c, invShiftRows_get S r c⟩,
    fun f S => ⟨?_, ?_⟩⟩
  · exact Mat.ext_get fun r c => by simp
  · exact Mat.ext_get fun r c => by simp

/-- Settles O22: the key is absorbed one rotation ahead, and without it already the zero key separates `markedState`. -/
theorem inverseRoundIsOneRotationAhead : Obligations.InverseRoundIsOneRotationAhead :=
  ⟨inverseRound_shiftRows_forwardRound, markedState, .zero, by decide +kernel⟩

/-! The inverse matrix. -/

theorem columnSum_preMixCol (a : Column) : columnSum (preMixCol a) = columnSum a := by
  rw [← mixCol_mixCol, columnSum_mixCol, columnSum_mixCol]

/-- R132, R133: the inverse mix of x, with y, z, w the bytes after it in its column, is a row of Minv times the column. -/
theorem mixByte_preMixCol (x y z w : Byte) {p u v m : Byte} (hp : x ^^^ y ^^^ z ^^^ w = p)
    (hu : xtime (xtime (x ^^^ z)) = u) (hv : xtime (xtime (y ^^^ w)) = v)
    (hm : gfmul 14 x ^^^ gfmul 11 y ^^^ gfmul 13 z ^^^ gfmul 9 w = m) :
    mixByte p (x ^^^ u) (y ^^^ v) = m := by
  rw [← hp, ← hu, ← hv, ← hm, ← BitVec.zero_xor (x := gfmul 14 x ^^^ _ ^^^ _ ^^^ _), ← BitVec.xor_self (x := x)]
  simp only [mixByte, gfmul_nine_left, gfmul_eleven_left, gfmul_thirteen_left, gfmul_fourteen_left, xtime_xor]
  ac_rfl

theorem invMixCol_eq_minvRows (a : Column) : invMixCol a =
    ⟨rowTimes (Machine.minvRow 0) a, rowTimes (Machine.minvRow 1) a, rowTimes (Machine.minvRow 2) a,
     rowTimes (Machine.minvRow 3) a⟩ := by
  obtain ⟨x, y, z, w⟩ := a
  rw [invMixCol_eq, mixCol_eq_mixByte, columnSum_preMixCol]
  simp only [columnSum, preMixCol, rowTimes, Machine.minvRow, Column.mk.injEq]
  refine ⟨mixByte_preMixCol x y z w rfl rfl rfl rfl, ?_, ?_, ?_⟩
  · exact mixByte_preMixCol y z w x (by ac_rfl) rfl (by rw [BitVec.xor_comm z]) (by ac_rfl)
  · exact mixByte_preMixCol z w x y (by ac_rfl) (by rw [BitVec.xor_comm z]) (by rw [BitVec.xor_comm w]) (by ac_rfl)
  · exact mixByte_preMixCol w x y z (by ac_rfl) (by rw [BitVec.xor_comm w]) rfl (by ac_rfl)

theorem invMixCol_get (a : Column) (i : Fin 4) : (invMixCol a).get i = rowTimes (Machine.minvRow i) a := by
  rw [invMixCol_eq_minvRows]
  fin_cases i <;> rfl

theorem mixCol_get (a : Column) (i : Fin 4) : (mixCol a).get i = rowTimes (mdsRow i) a :=
  Column.get_ofFn _ i

/-- Settles O16: invmixcol row by row, and the two products of the matrices entry by entry. -/
theorem inverseMixIsInverseMatrix : Obligations.InverseMixIsInverseMatrix :=
  ⟨invMixCol_get, by decide +kernel⟩

/-! Linearity of the column mix. -/

/-- A column with f applied to each byte. -/
def Column.map (f : Byte → Byte) (a : Column) : Column := .ofFn fun r => f (a.get r)

theorem rowTimes_add (m a b : Column) : rowTimes m (a.add b) = rowTimes m a ^^^ rowTimes m b := by
  simp only [rowTimes, Column.add, gfadd, gfmul_xor_right]
  ac_rfl

theorem rowTimes_map_gfmul (m a : Column) (c : Byte) : rowTimes m (a.map (gfmul c)) = gfmul c (rowTimes m a) := by
  simp only [rowTimes, Column.map, Column.ofFn, Column.get, gfmul_xor_right, gfmul_left_comm c]

@[simp] theorem Column.add_get (a b : Column) (r : Fin 4) : (a.add b).get r = a.get r ^^^ b.get r := by
  fin_cases r <;> rfl

@[simp] theorem Column.map_get (f : Byte → Byte) (a : Column) (r : Fin 4) : (a.map f).get r = f (a.get r) :=
  Column.get_ofFn _ r

theorem mixCol_add (a b : Column) : mixCol (a.add b) = (mixCol a).add (mixCol b) :=
  Column.ext_get fun r => by simp only [Column.add_get, mixCol_get, rowTimes_add]

theorem invMixCol_add (a b : Column) : invMixCol (a.add b) = (invMixCol a).add (invMixCol b) :=
  Column.ext_get fun r => by simp only [Column.add_get, invMixCol_get, rowTimes_add]

theorem mixCol_map_gfmul (c : Byte) (a : Column) : mixCol (a.map (gfmul c)) = (mixCol a).map (gfmul c) :=
  Column.ext_get fun r => by simp only [Column.map_get, mixCol_get, rowTimes_map_gfmul]

theorem invMixCol_map_gfmul (c : Byte) (a : Column) : invMixCol (a.map (gfmul c)) = (invMixCol a).map (gfmul c) :=
  Column.ext_get fun r => by simp only [Column.map_get, invMixCol_get, rowTimes_map_gfmul]

@[simp] theorem addRoundKey_col (S K : Mat) (c : Fin 4) : (addRoundKey S K).col c = (S.col c).add (K.col c) :=
  Column.ext_get fun r => (addRoundKey_get S K r c).trans (Column.add_get _ _ r).symm

@[simp] theorem mapBytes_col (f : Byte → Byte) (S : Mat) (c : Fin 4) :
    (Machine.mapBytes f S).col c = (S.col c).map f :=
  Column.ext_get fun r => (mapBytes_get f S r c).trans (Column.map_get f _ r).symm

/-! Columns of four equal bytes. -/

theorem mixCol_of_equal (b : Byte) : mixCol ⟨b, b, b, b⟩ = ⟨b, b, b, b⟩ := by
  have hb : mixByte (columnSum ⟨b, b, b, b⟩) b b = b := by simp [mixByte, columnSum]
  rw [mixCol_eq_mixByte, hb]

theorem invMixCol_of_equal (b : Byte) : invMixCol ⟨b, b, b, b⟩ = ⟨b, b, b, b⟩ :=
  (congrArg invMixCol (mixCol_of_equal b)).symm.trans (invMixCol_mixCol _)

/-- Settles O17: each property column by column. -/
theorem columnMixProperties : Obligations.ColumnMixProperties := by
  refine ⟨fun S => ⟨invMixColumns_mixColumns S, mixColumns_invMixColumns S⟩, by decide +kernel,
    ⟨markedState, by decide +kernel⟩, fun b => ⟨mixCol_of_equal b, invMixCol_of_equal b⟩, fun S c b h => ?_,
    fun S T => ⟨Mat.ext_col fun c => ?_, Mat.ext_col fun c => ?_⟩,
    fun k S => ⟨Mat.ext_col fun c => ?_, Mat.ext_col fun c => ?_⟩⟩
  · simp [h, mixCol_of_equal, invMixCol_of_equal]
  · simp [mixCol_add]
  · simp [invMixCol_add]
  · simp [mixCol_map_gfmul]
  · simp [invMixCol_map_gfmul]

end Sys2Proof

/-! The key schedule and the ciphertext of the zero block are affine in the key (43_key.md R157, 44_rounds.md R184). A byte
that depends on the key is affine when its change from the zero key is additive and takes a factor outside; key bytes are,
and sums, constant products and constants keep it, so every byte of the schedule and of the encryption is. An affine byte is
its value at the zero key plus, for each key byte, that byte times its change at the unit key. -/

namespace Sys2Proof

open Machine (addBlock scaleBlock unitKey mapBytes zeroBlockCipher)

@[simp] theorem addBlock_getElem (K L : Block) {n : Nat} (h : n < 16) : (addBlock K L)[n] = K[n] ^^^ L[n] := by
  simp [addBlock]

@[simp] theorem scaleBlock_getElem (c : Byte) (K : Block) {n : Nat} (h : n < 16) :
    (scaleBlock c K)[n] = gfmul c K[n] := by
  simp [scaleBlock]

/-- A byte that is an affine function of the key over GF(2^8): the two forms of R157. -/
structure IsAffine (f : Block → Byte) : Prop where
  add (K L : Block) : f (addBlock K L) = f K ^^^ f L ^^^ f .zero
  scale (c : Byte) (K : Block) : f (scaleBlock c K) ^^^ f .zero = gfmul c (f K ^^^ f .zero)

/-- A state whose bytes are all affine functions of the key. -/
def IsAffineMat (F : Block → Mat) : Prop := ∀ r c, IsAffine fun K => (F K).get r c

theorem isAffine_const (b : Byte) : IsAffine fun _ => b where
  add _ _ := by simp
  scale _ _ := by rw [BitVec.xor_self]; exact (gfmul_zero_right _).symm

theorem isAffine_keyByte {n : Nat} (h : n < 16) : IsAffine fun K => K[n] where
  add _ _ := by simp
  scale _ _ := by simp

theorem IsAffine.xor {f g : Block → Byte} (hf : IsAffine f) (hg : IsAffine g) : IsAffine fun K => f K ^^^ g K where
  add K L := by
    rw [hf.add, hg.add]
    ac_rfl
  scale c K := by
    have hsum (a b d e : Byte) : a ^^^ b ^^^ (d ^^^ e) = a ^^^ d ^^^ (b ^^^ e) := by ac_rfl
    rw [hsum, hf.scale, hg.scale, ← gfmul_xor_right, hsum]

theorem IsAffine.constMul {f : Block → Byte} (hf : IsAffine f) (m : Byte) : IsAffine fun K => gfmul m (f K) where
  add K L := by rw [hf.add, gfmul_xor_right, gfmul_xor_right]
  scale c K := by rw [← gfmul_xor_right, hf.scale, gfmul_left_comm, gfmul_xor_right]

theorem isAffineMat_const (S : Mat) : IsAffineMat fun _ => S := fun r c => isAffine_const (S.get r c)

theorem isAffineMat_load : IsAffineMat load := by
  intro r c
  simp only [load_get]
  exact isAffine_keyByte _

theorem IsAffineMat.addRoundKey {F G : Block → Mat} (hF : IsAffineMat F) (hG : IsAffineMat G) :
    IsAffineMat fun K => addRoundKey (F K) (G K) := by
  intro r c
  simp only [addRoundKey_get]
  exact (hF r c).xor (hG r c)

theorem IsAffineMat.shiftRows {F : Block → Mat} (hF : IsAffineMat F) : IsAffineMat fun K => shiftRows (F K) := by
  intro r c
  simp only [shiftRows_get]
  exact hF r (c + r)

theorem IsAffineMat.mixColumns {F : Block → Mat} (hF : IsAffineMat F) : IsAffineMat fun K => mixColumns (F K) := by
  intro r c
  simp only [Mat.get, mixColumns_col, mixCol_get]
  exact ((((hF 0 c).constMul _).xor ((hF 1 c).constMul _)).xor ((hF 2 c).constMul _)).xor ((hF 3 c).constMul _)

theorem IsAffineMat.forwardRound {F G : Block → Mat} (hF : IsAffineMat F) (hG : IsAffineMat G) :
    IsAffineMat fun K => forwardRound (F K) (G K) :=
  hF.shiftRows.mixColumns.addRoundKey hG

/-! The schedule. -/

theorem firstWords_eq_load (K : Block) : firstWords K = load K :=
  Mat.ext_get fun r c => (firstWords_get K r c).trans (load_get K r c).symm

/-- R152, byte by byte: the last word of the next window is affine when the words it is made of are. -/
theorem isAffine_scheduleTerm {W : Block → Column} (hW : ∀ r, IsAffine fun K => (W K).get r) (i : Nat) (r : Fin 4) :
    IsAffine fun K => (scheduleTerm i (W K)).get r := by
  simp only [scheduleTerm_eq]
  split
  · fin_cases r
    · exact (hW 1).xor (isAffine_const _)
    · exact hW 2
    · exact hW 3
    · exact hW 0
  · exact hW r

theorem isAffineMat_scheduleWindow (n : Nat) : IsAffineMat fun K => scheduleWindow K n := by
  induction n with
  | zero =>
    simp only [scheduleWindow, firstWords_eq_load]
    exact isAffineMat_load
  | succ n ih =>
    have hlast (r : Fin 4) : IsAffine fun K => (scheduleWindow K (n + 1)).get r 3 := by
      simp only [scheduleWindow, Mat.get, Mat.col, Column.add_get]
      exact (ih r 0).xor (isAffine_scheduleTerm (fun r => ih r 3) _ r)
    intro r c
    fin_cases c
    · exact ih r 1
    · exact ih r 2
    · exact ih r 3
    · exact hlast r

theorem isAffineMat_keySchedule (j : Fin 11) : IsAffineMat fun K => (keySchedule K)[j] := by
  simp only [getElem_keySchedule]
  exact isAffineMat_scheduleWindow _

theorem rcon_succ {j : Nat} (hj : 1 ≤ j) : rcon (j + 1) = xtime (rcon j) := by
  obtain ⟨n, rfl⟩ := Nat.exists_eq_add_of_le' hj
  rfl

/-- V-K2: round key 1 of the zero key. -/
theorem store_keySchedule_zero_one :
    store (keySchedule .zero)[1] = #v[1, 0, 0, 0, 1, 0, 0, 0, 1, 0, 0, 0, 1, 0, 0, 0] := by
  decide +kernel

/-- Settles O20: the schedule's bytes are affine, and the constants double. -/
theorem keyScheduleProperties : Obligations.KeyScheduleProperties := by
  refine ⟨fun K => ?_, fun K L j => Mat.ext_get fun r c => ?_, fun c K j => Mat.ext_get fun r d => ?_,
    store_keySchedule_zero_one, fun j => rcon_succ, by decide +kernel⟩
  · exact (getElem_keySchedule K 0).trans (firstWords_eq_load K)
  · simp only [addRoundKey_get]
    exact (isAffineMat_keySchedule j r c).add K L
  · simp only [addRoundKey_get, mapBytes_get]
    exact (isAffineMat_keySchedule j r d).scale c K

/-! The cipher. -/

theorem isAffineMat_forwardRounds (l : List (Fin 11)) {F : Block → Mat} (hF : IsAffineMat F) :
    IsAffineMat fun K => forwardRounds (keySchedule K) l (F K) := by
  induction l generalizing F with
  | nil => exact hF
  | cons i l ih => exact ih (hF.forwardRound (isAffineMat_keySchedule i))

theorem isAffineMat_encrypt (S : Mat) : IsAffineMat fun K => encrypt (keySchedule K) S := by
  have hstart := (isAffineMat_const S).addRoundKey (isAffineMat_keySchedule 0)
  exact (isAffineMat_forwardRounds middleRounds hstart).shiftRows.addRoundKey (isAffineMat_keySchedule 10)

theorem isAffine_zeroBlockCipher (row : Fin 16) : IsAffine fun K => (zeroBlockCipher K)[row] := by
  simp only [zeroBlockCipher, getElem_store]
  exact isAffineMat_encrypt .zero _ _

/-! An affine byte from its values at the zero key and the unit keys. -/

/-- The key A with the bytes of K at the places of l added, one unit key at a time. -/
def addBytes (K A : Block) (l : List (Fin 16)) : Block :=
  l.foldl (fun A j => addBlock A (scaleBlock K[j] (unitKey j))) A

theorem addBytes_cons (K A : Block) (j : Fin 16) (l : List (Fin 16)) :
    addBytes K A (j :: l) = addBytes K (addBlock A (scaleBlock K[j] (unitKey j))) l := by
  rw [addBytes, List.foldl_cons, addBytes]

theorem gfmul_unitKey (a : Byte) (j n : Fin 16) : gfmul a (unitKey j)[n] = if n = j then a else 0 := by
  simp only [unitKey, Fin.getElem_fin, Vector.getElem_ofFn]
  split
  · exact gfmul_one_right a
  · exact gfmul_zero_right a

theorem addBytes_getElem (K A : Block) (n : Fin 16) {l : List (Fin 16)} (hl : l.Nodup) :
    (addBytes K A l)[n] = if n ∈ l then A[n] ^^^ K[n] else A[n] := by
  induction l generalizing A with
  | nil => rfl
  | cons j l ih =>
    obtain ⟨hj, hl⟩ := List.nodup_cons.1 hl
    have hstep : (addBlock A (scaleBlock K[j] (unitKey j)))[n] = A[n] ^^^ (if n = j then K[j] else 0) := by
      rw [← gfmul_unitKey]
      simp
    rw [addBytes_cons, ih _ hl, hstep]
    by_cases hn : n = j
    · subst hn
      simp [hj]
    · simp [hn]

/-- Every key is the sum of its bytes times the unit keys. -/
theorem addBytes_zero_finRange (K : Block) : addBytes K .zero (List.finRange 16) = K := by
  refine Vector.ext fun n hn => ?_
  have h := addBytes_getElem K .zero ⟨n, hn⟩ (List.nodup_finRange 16)
  simpa using h

theorem IsAffine.apply_addBytes {f : Block → Byte} (hf : IsAffine f) (K A : Block) (l : List (Fin 16)) :
    f (addBytes K A l) = l.foldl (fun acc j => acc ^^^ gfmul (f (unitKey j) ^^^ f .zero) K[j]) (f A) := by
  refine (List.foldl_hom f fun A j => ?_).symm
  rw [hf.add, BitVec.xor_assoc, hf.scale, gfmul_comm]

/-- Settles O23: each byte of the ciphertext is affine in the key, and the key is the sum of its bytes. -/
theorem zeroBlockCipherAffine : Obligations.ZeroBlockCipherAffine := by
  intro K row
  have h := (isAffine_zeroBlockCipher row).apply_addBytes K .zero (List.finRange 16)
  rwa [addBytes_zero_finRange] at h

end Sys2Proof

/-! The commands, accepted, completed and rejected (30_encoding.md R89 to R92), by the shared meaning of `exec`: an issued
command that passes its checks, waited for, has the effect `effectOf` names, on the registers as they stand. -/

namespace Sys2Proof.Machine

/-! Completion. -/

theorem exec_complete {i : Instr} {s : State} {x : Snapshot} (hp : s.pend = some ⟨i, x⟩) :
    exec i s = .next (retire (effectOf i x s)) :=
  (exec_eq_command i s).trans (command_complete hp)

theorem exec_busy {i : Instr} {s : State} {p : Pending} (hp : s.pend = some p) (hi : p.cmd ≠ i) :
    exec i s = .next (raise .busyWrite s) :=
  (exec_eq_command i s).trans (command_busy hp hi)

/-- A command that needs no key, issued and waited for. -/
theorem issueAndWait_of_not_needsKey {i : Instr} {s : State} (hp : s.pend = none) (hn : ¬ needsKey i = true) :
    issueAndWait i s = .next (effectOf i (.of s) s) :=
  issueAndWait_of_issueError_eq_none hp
    ((issueError_eq_none_iff i s).2 ⟨wellFormed_of_not_needsKey hn, fun h => absurd h hn⟩)

/-- A well-formed command, issued with KEYVALID = 1 and waited for. -/
theorem issueAndWait_of_keyValid {i : Instr} {s : State} (hp : s.pend = none) (hw : i.WellFormed)
    (hk : s.keyValid = true) : issueAndWait i s = .next (effectOf i (.of s) s) :=
  issueAndWait_of_issueError_eq_none hp ((issueError_eq_none_iff i s).2 ⟨hw, fun _ => hk⟩)

/-- Settles O24: the issue checks pass, and accept writes PEND alone. -/
theorem commandsAccepted : Obligations.CommandsAccepted :=
  fun i s hp hw hk => ⟨_, exec_accept hp ((issueError_eq_none_iff i s).2 ⟨hw, hk⟩), rfl, rfl⟩

/-- Settles O34: a completion writes no error and clears PEND. -/
theorem completionRecordsNoError : Obligations.CompletionRecordsNoError :=
  fun _ _ hp => ⟨_, exec_complete hp, rfl, rfl, by simp, by simp⟩

/-- Settles O25: each command's effect. -/
theorem fieldCommandsComplete : Obligations.FieldCommandsComplete := by
  refine ⟨fun s x => exec_complete, fun s x => exec_complete, fun s x => exec_complete, fun s hp => ⟨?_, ?_, ?_⟩⟩
  all_goals exact issueAndWait_of_not_needsKey hp Bool.false_ne_true

/-- Settles O26: each command's effect. -/
theorem rowCommandsComplete : Obligations.RowCommandsComplete := by
  refine ⟨fun s x => exec_complete, fun s x => exec_complete, fun s hp => ⟨?_, ?_⟩⟩
  all_goals exact issueAndWait_of_not_needsKey hp Bool.false_ne_true

/-- A column by its bytes. -/
theorem col_eq_bytes (S : Mat) (c : Fin 4) : S.col c = ⟨S.get 0 c, S.get 1 c, S.get 2 c, S.get 3 c⟩ := rfl

/-- Settles O27: the mixes column by column, and each command's effect. -/
theorem columnCommandsComplete : Obligations.ColumnCommandsComplete := by
  refine ⟨fun S c => ⟨mixColumns_col S c, invMixColumns_col S c, col_eq_bytes S c⟩, fun s x => exec_complete,
    fun s x => exec_complete, fun s hp => ⟨?_, ?_⟩⟩
  all_goals exact issueAndWait_of_not_needsKey hp Bool.false_ne_true

/-- Settles O28: the effect of ARK, well-formed at every index. -/
theorem arkCompletes : Obligations.ArkCompletes :=
  ⟨fun _ _ _ => exec_complete, fun _ _ hp hk => issueAndWait_of_keyValid hp rfl hk⟩

/-- Settles O29: the effect of KEYEXP. -/
theorem keyexpCompletes : Obligations.KeyexpCompletes :=
  ⟨fun _ _ => exec_complete, fun _ hp => issueAndWait_of_not_needsKey hp Bool.false_ne_true⟩

/-- R73: the indices of the middle rounds are well-formed. -/
theorem wellFormed_round {k : Fin 11} (h : MiddleRound k) : (Instr.round k).WellFormed ∧ (Instr.iround k).WellFormed :=
  ⟨decide_eq_true h, decide_eq_true h⟩

/-- Settles O30: each command's effect, the middle rounds at their well-formed indices. -/
theorem roundCommandsComplete : Obligations.RoundCommandsComplete := by
  refine ⟨fun k s x _ _ => exec_complete, fun k s x _ _ => exec_complete, fun s x => exec_complete,
    fun s x => exec_complete, fun k s hp hk h1 h9 => ?_⟩
  obtain ⟨hw, hw'⟩ := wellFormed_round (k := k) ⟨h1, h9⟩
  exact ⟨issueAndWait_of_keyValid hp hw hk, issueAndWait_of_keyValid hp hw' hk, issueAndWait_of_keyValid hp rfl hk,
    issueAndWait_of_keyValid hp rfl hk⟩

/-- Settles O31: each command's effect. -/
theorem cipherCommandsComplete : Obligations.CipherCommandsComplete :=
  ⟨fun _ _ => exec_complete, fun _ _ => exec_complete,
    fun _ hp hk => ⟨issueAndWait_enc hp hk, issueAndWait_dec hp hk⟩⟩

/-- Settles O32: the effect of NOP. -/
theorem nopCompletes : Obligations.NopCompletes :=
  ⟨fun _ _ => exec_complete, fun _ hp => issueAndWait_of_not_needsKey hp Bool.false_ne_true⟩

/-! Rejection inside `exec`. -/

theorem issueError_of_not_wellFormed {i : Instr} (s : State) (h : ¬ i.WellFormed) : issueError i s = some .badRidx := by
  simp [issueError, h]

/-- Settles O36: the index is checked before the key, and a pending command before both. -/
theorem issueChecksInsideExec : Obligations.IssueChecksInsideExec := by
  refine ⟨fun k s hp hk => ?_, fun i p s hp hi => ⟨_, exec_busy hp hi, rfl, by simpa using hp⟩⟩
  have hm : ¬ MiddleRound k := by omega
  have hw : ¬ (Instr.round k).WellFormed := mt of_decide_eq_true hm
  have hw' : ¬ (Instr.iround k).WellFormed := mt of_decide_eq_true hm
  exact ⟨exec_reject hp (issueError_of_not_wellFormed s hw), exec_reject hp (issueError_of_not_wellFormed s hw')⟩

/-! ENC and DEC as their single-round commands. -/

/-- Commands that each replace ST by f of ST and their round key, issued in order before others, replace ST by the fold. -/
theorem issueAll_map_append {cmd : Fin 11 → Instr} {f : Mat → Mat → Mat} {l : List (Fin 11)}
    (hcmd : ∀ k ∈ l, ∀ s : State, s.pend = none → s.keyValid = true →
      issueAndWait (cmd k) s = .next { s with st := f s.st s.rk[k] })
    (rest : List Instr) {s : State} (hp : s.pend = none) (hk : s.keyValid = true) :
    issueAll (l.map cmd ++ rest) s = issueAll rest { s with st := l.foldl (fun T i => f T s.rk[i]) s.st } := by
  induction l generalizing s with
  | nil => rfl
  | cons k l ih =>
    rw [List.map_cons, List.cons_append, issueAll_cons _ (hcmd k List.mem_cons_self s hp hk)]
    exact ih (fun j hj => hcmd j (List.mem_cons_of_mem k hj)) hp hk

theorem issueAll_singleton {i : Instr} {s t : State} (h : issueAndWait i s = .next t) : issueAll [i] s = .next t :=
  issueAll_cons [] h

theorem wellFormed_of_mem_middleRounds :
    ∀ k ∈ middleRounds, (Instr.round k).WellFormed ∧ (Instr.iround k).WellFormed := by
  decide

/-- R186: the list of ENC. -/
theorem issueAll_enc {s : State} (hp : s.pend = none) (hk : s.keyValid = true) :
    issueAll (.ark 0 :: (middleRounds.map .round ++ [.fround])) s = .next { s with st := encrypt s.rk s.st } := by
  have hround : ∀ k ∈ middleRounds, ∀ t : State, t.pend = none → t.keyValid = true →
      issueAndWait (.round k) t = .next { t with st := forwardRound t.st t.rk[k] } :=
    fun k hm t htp htk => issueAndWait_of_keyValid htp (wellFormed_of_mem_middleRounds k hm).1 htk
  rw [issueAll_cons _ (arkCompletes.2 0 s hp hk), issueAll_map_append hround _ (by exact hp) (by exact hk)]
  exact issueAll_singleton (issueAndWait_of_keyValid hp rfl hk)

/-- R186: the list of DEC. -/
theorem issueAll_dec {s : State} (hp : s.pend = none) (hk : s.keyValid = true) :
    issueAll (.ark 10 :: (middleRounds.reverse.map .iround ++ [.ifround])) s =
      .next { s with st := decrypt s.rk s.st } := by
  have hround : ∀ k ∈ middleRounds.reverse, ∀ t : State, t.pend = none → t.keyValid = true →
      issueAndWait (.iround k) t = .next { t with st := inverseRound t.st t.rk[k] } :=
    fun k hm t htp htk =>
      issueAndWait_of_keyValid htp (wellFormed_of_mem_middleRounds k (List.mem_reverse.1 hm)).2 htk
  rw [issueAll_cons _ (arkCompletes.2 10 s hp hk), issueAll_map_append hround _ (by exact hp) (by exact hk)]
  exact issueAll_singleton (issueAndWait_of_keyValid hp rfl hk)

/-- Settles O33: the lists are those of `issueAll_enc` and `issueAll_dec`. -/
theorem cipherCommandsDecompose : Obligations.CipherCommandsDecompose :=
  fun _ hp hk => ⟨(issueAll_enc hp hk).trans (issueAndWait_enc hp hk).symm,
    (issueAll_dec hp hk).trans (issueAndWait_dec hp hk).symm⟩

/-! Frames. -/

/-- R24, R29, R30, R39: the words of KEY, GF_A and GF_B read from these registers alone. -/
theorem memRead_operands {a : WordAddr} {s t : State} (h4 : 4 ≤ a.toNat) (h9 : a.toNat ≤ 9) (hk : t.key = s.key)
    (hA : t.gfA = s.gfA) (hB : t.gfB = s.gfB) : (memRead a t).1 = (memRead a s).1 := by
  obtain h | h | h : a.toNat < 8 ∨ a.toNat = 8 ∨ a.toNat = 9 := by omega
  · simp [memRead, regAt_of_key h4 h, hk]
  · obtain rfl : a = wordAddr 0x020 := BitVec.eq_of_toNat_eq h
    simp [memRead, hA]
  · obtain rfl : a = wordAddr 0x024 := BitVec.eq_of_toNat_eq h
    simp [memRead, hB]

theorem sameOperands_of_eq {s t : State} (hk : t.key = s.key) (hA : t.gfA = s.gfA) (hB : t.gfB = s.gfB) :
    SameOperands s t := by
  refine ⟨hk, hA, hB, fun a h h' => ?_⟩
  have ha : (a.extractLsb' 2 7).toNat = a.toNat / 4 := by
    rw [BitVec.extractLsb'_toNat, Nat.shiftRight_eq_div_pow]
    omega
  rw [windowByte, windowByte, memRead_operands (by omega) (by omega) hk hA hB]

theorem exec_sameOperands {i : Instr} {s t : State} (h : exec i s = .next t) : SameOperands s t :=
  sameOperands_of_eq (exec_keeps (f := State.key) h (by simp) (by simp) (by simp))
    (exec_keeps (f := State.gfA) h (by simp) (by simp) (by simp))
    (exec_keeps (f := State.gfB) h (by simp) (by simp) (by simp))

theorem exec_sameOutside {i : Instr} {s t : State} (h : exec i s = .next t) : SameOutside s t :=
  ⟨exec_host h, exec_keeps (f := State.draws) h (by simp) (by simp) (by simp),
    exec_keeps (f := State.sched) h (by simp) (by simp) (by simp)⟩

/-- R90, R92: neither accept nor completion writes an error. -/
theorem exec_sameErrors {i : Instr} {s t : State} (h : exec i s = .next t) : SameErrors i s t := by
  refine ⟨fun hp hw hk => ?_, fun x hp => ?_⟩
  · have ha := exec_accept hp ((issueError_eq_none_iff i s).2 ⟨hw, hk⟩)
    obtain rfl := Host.Outcome.next.inj (h.symm.trans ha)
    exact ⟨rfl, rfl⟩
  · obtain rfl := Host.Outcome.next.inj (h.symm.trans (exec_complete hp))
    simp

/-- Settles O37: the frame of every command, and of the effects of these three. -/
theorem fieldCommandFrame : Obligations.FieldCommandFrame := by
  intro i s t hi h
  have hst : ∀ x, (effectOf i x s).st = s.st := by obtain rfl | rfl | rfl := hi <;> exact fun _ => rfl
  have hne : i ≠ .keyexp := by obtain rfl | rfl | rfl := hi <;> decide
  exact ⟨exec_sameOperands h, exec_sameErrors h, exec_sameOutside h,
    exec_keeps (f := State.st) h (by simp) (by simp) hst,
    exec_keeps (f := State.rk) h (by simp) (by simp) fun x => effectOf_rk_of_ne i x s hne,
    exec_keeps (f := State.keyValid) h (by simp) (by simp) fun x => effectOf_keyValid_of_ne i x s hne⟩

/-- Settles O38: the frame of every command, and of the effects of those that write ST. -/
theorem stateCommandFrame : Obligations.StateCommandFrame := by
  intro i s t hi h
  have heff : i ≠ .keyexp ∧ ∀ x, (effectOf i x s).gfY = s.gfY := by
    obtain rfl | rfl | rfl | rfl | ⟨k, rfl⟩ | ⟨k, rfl⟩ | rfl | ⟨k, rfl⟩ | rfl | rfl | rfl := hi <;>
      exact ⟨nofun, fun _ => rfl⟩
  obtain ⟨hne, hgfY⟩ := heff
  exact ⟨exec_sameOperands h, exec_sameErrors h, exec_sameOutside h,
    exec_keeps (f := State.gfY) h (by simp) (by simp) hgfY,
    exec_keeps (f := State.rk) h (by simp) (by simp) fun x => effectOf_rk_of_ne i x s hne,
    exec_keeps (f := State.keyValid) h (by simp) (by simp) fun x => effectOf_keyValid_of_ne i x s hne⟩

/-- Settles O39: the frame of every command, and of the effects of these two. -/
theorem keyexpAndNopFrame : Obligations.KeyexpAndNopFrame := by
  refine ⟨fun s t h => ?_, fun s t h => ?_⟩
  · exact ⟨exec_sameOperands h, exec_sameErrors h, exec_sameOutside h,
      exec_keeps (f := State.st) h (by simp) (by simp) fun _ => rfl,
      exec_keeps (f := State.gfY) h (by simp) (by simp) fun _ => rfl⟩
  · exact ⟨exec_sameOperands h, exec_sameErrors h, exec_sameOutside h,
      exec_keeps (f := State.st) h (by simp) (by simp) fun _ => rfl,
      exec_keeps (f := State.gfY) h (by simp) (by simp) fun _ => rfl,
      exec_keeps (f := State.rk) h (by simp) (by simp) fun _ => rfl,
      exec_keeps (f := State.keyValid) h (by simp) (by simp) fun _ => rfl⟩

end Sys2Proof.Machine

/-! Host accesses and host statements (10_state.md R29 to R31 and R39, 20_memory.md R61, 30_encoding.md R86, R89, R92,
70_reset_and_hazards.md R232). -/

namespace Sys2Proof

theorem setWidth_eq_ofNat_toNat {m : Nat} (n : Nat) (x : BitVec m) : x.setWidth n = BitVec.ofNat n x.toNat :=
  (BitVec.ofNat_toNat n x).symm

/-- R61: the low byte of a word, read back zero-extended. -/
theorem setWidth_setWidth_byte (v : Word) : (v.setWidth 8).setWidth 32 = v &&& 0xFF := by
  apply BitVec.eq_of_toNat_eq
  rw [BitVec.toNat_setWidth, BitVec.toNat_setWidth, BitVec.toNat_and]
  have h : v.toNat &&& 255 = v.toNat % 2 ^ 8 := Nat.and_two_pow_sub_one_eq_mod v.toNat 8
  refine Eq.trans ?_ h.symm
  omega

/-- R61: a KEY word reads as what was written to it. -/
theorem keyWordOf_setKeyWord (key : Block) (w : Fin 4) (v : Word) : keyWordOf (setKeyWord key w v) w = v := by
  have hlanes : Column.ofWord (keyWordOf (setKeyWord key w v) w) = Column.ofWord v := by
    refine Column.ext_get fun k => ?_
    have hbyte := Machine.getElem_setKeyWord key w v ⟨4 * w.val + k.val, by omega⟩
    rw [if_pos (show (4 * w.val + k.val) / 4 = w.val by omega)] at hbyte
    simp only [Column.ofWord, Column.get_ofFn, laneOf_keyWordOf]
    refine hbyte.trans (congrArg (laneOf v) (Fin.ext ?_))
    change (4 * w.val + k.val) % 4 = k.val
    omega
  rw [← toWord_ofWord (keyWordOf _ w), hlanes, toWord_ofWord]

end Sys2Proof

namespace Sys2Proof.Machine

/-! Data registers. -/

theorem memRead_gfA (s : State) : memRead (wordAddr 0x020) s = (s.gfA.setWidth 32, s) := by
  simp [memRead]

theorem memRead_gfB (s : State) : memRead (wordAddr 0x024) s = (s.gfB.setWidth 32, s) := by
  simp [memRead]

theorem memRead_gfY {s : State} (h : s.busy = false) : memRead (wordAddr 0x028) s = (s.gfY.setWidth 32, s) := by
  simp [memRead, h]

theorem memWrite_gfA {s : State} (v : Word) (h : s.busy = false) :
    memWrite (wordAddr 0x020) v s = .settled { s with gfA := v.setWidth 8 } := by
  simp [memWrite, h]

theorem memWrite_gfB {s : State} (v : Word) (h : s.busy = false) :
    memWrite (wordAddr 0x024) v s = .settled { s with gfB := v.setWidth 8 } := by
  simp [memWrite, h]

/-- R89: with nothing pending, a CMD write of a word that decodes asks for its command. -/
theorem memWrite_cmd_of_ok {v : Word} {s : State} {i : Instr} (hp : s.pend = none) (hd : decode v = .ok i) :
    memWrite (wordAddr 0x030) v s = .run i s := by
  simp [memWrite, issue, hp, hd]

/-- Settles O47: each access by its register. -/
theorem fieldRegisterAccess : Obligations.FieldRegisterAccess := by
  intro v s
  simp only [← setWidth_eq_ofNat_toNat]
  refine ⟨fun hp => ?_, memRead_gfA s, memRead_gfB s⟩
  have hb : s.busy = false := (busy_eq_false_iff s).2 hp
  exact ⟨memWrite_gfA v hb, memWrite_gfB v hb, memRead_gfY hb⟩

/-- R39: a result register reads as a draw while BUSY = 1. -/
@[simp] theorem readResult_of_busy {s : State} (v : Word) (h : s.busy = true) :
    readResult v s = (Config.draw s.draws, { s with draws := s.draws + 1 }) := by
  simp [readResult, h]

theorem memRead_of_busy {a : WordAddr} {s : State} (hb : s.busy = true)
    (ha : a.toNat ≤ 3 ∨ a.toNat = 10 ∨ (64 ≤ a.toNat ∧ a.toNat ≤ 107)) :
    memRead a s = (Config.draw s.draws, { s with draws := s.draws + 1 }) := by
  obtain h | h | ⟨h, h'⟩ := ha
  · simp [memRead, regAt_of_state (Nat.lt_succ_of_le h), hb]
  · obtain rfl : a = wordAddr 0x028 := BitVec.eq_of_toNat_eq h
    simp [memRead, hb]
  · simp [memRead, regAt_of_rk h (Nat.lt_succ_of_le h'), hb]

/-- Settles O49: the result registers by `memRead_of_busy`, a KEY word byte by byte. -/
theorem busyReadsAreDraws : Obligations.BusyReadsAreDraws := by
  refine fun a s hb => ⟨memRead_of_busy hb, fun ⟨h4, h7⟩ => ?_⟩
  have hr : memRead a s = (keyWordOf s.key ⟨a.toNat - 4, by omega⟩, s) := by
    simp [memRead, regAt_of_key h4 (Nat.lt_succ_of_le h7)]
  refine ⟨by rw [hr], fun k => ?_⟩
  rw [hr, laneOf_keyWordOf]
  exact getElem_congr_idx (Nat.mod_eq_of_lt (by omega)).symm

/-- Settles O51: each write by its register, and the read of what it left. -/
theorem writeThenReadBack : Obligations.WriteThenReadBack := by
  intro a v s hp
  have hb : s.busy = false := (busy_eq_false_iff s).2 hp
  refine ⟨fun h7 => ?_, fun h => ?_⟩
  · by_cases h3 : a.toNat < 4
    · have hr := regAt_of_state h3
      refine ⟨{ s with st := s.st.setCol ⟨a.toNat, h3⟩ (.ofWord v) }, by simp [memWrite, hr, hb], ?_⟩
      simp [memRead, hr, readResult, State.busy, hp]
    · have hr := regAt_of_key (Nat.le_of_not_lt h3) (Nat.lt_succ_of_le h7)
      refine ⟨{ s with key := setKeyWord s.key ⟨a.toNat - 4, by omega⟩ v, keyValid := false },
        by simp [memWrite, hr, hb], ?_⟩
      simp [memRead, hr, keyWordOf_setKeyWord]
  · obtain h | h := h
    · obtain rfl : a = wordAddr 0x020 := BitVec.eq_of_toNat_eq h
      exact ⟨_, memWrite_gfA v hb, by rw [memRead_gfA, setWidth_setWidth_byte]⟩
    · obtain rfl : a = wordAddr 0x024 := BitVec.eq_of_toNat_eq h
      exact ⟨_, memWrite_gfB v hb, by rw [memRead_gfB, setWidth_setWidth_byte]⟩

/-! The host's statements. -/

@[simp] theorem hostVar_setHostVar (n : Nat) (v : Word) (s : State) : hostVar (setHostVar n v s) n = v := by
  simp [hostVar, findVar_insertVar]

theorem hostVar_setHostVar_of_ne {m n : Nat} (v : Word) (s : State) (h : m ≠ n) :
    hostVar (setHostVar n v s) m = hostVar s m := by
  simp [hostVar, findVar_insertVar_ne _ v h]

/-- The host's step, with rst_n = 1, when its next statement asks for no command. -/
theorem step_stmt {s t : State} {c : HostStmt} (ht : s.turn = .host) (hc : s.host.prog[s.host.pc]? = some c)
    (h : hostStmt true c (dropTurn s) = .settled t) : step s = .next t :=
  step_host_settled ht ((hostMove_stmt (s := dropTurn s) hc).trans h)

/-- The host's step in a cycle with rst_n = 0. -/
theorem step_stmt_in_reset {s t : State} {c : HostStmt} (ht : s.turn = .hostInReset)
    (hc : s.host.prog[s.host.pc]? = some c) (h : hostStmt false c (resetBlock (dropTurn s)) = .settled t) :
    step s = .next t := by
  have hm : hostMove false (resetBlock (dropTurn s)) = .settled t :=
    (hostMove_stmt (s := resetBlock (dropTurn s)) hc).trans h
  simp [step, fetch, ht, hm]

/-- A host write that asks for a command makes the step that command. -/
theorem step_hostWrites_run {s t : State} {a : WordAddr} {v : Word} {i : Instr} (ht : s.turn = .host)
    (hw : HostWrites s a v) (hm : memWrite a v (hostNext (dropTurn s)) = .run i t) : step s = exec i t :=
  step_host_run ht ((hostMove_of_hostWrites hw).trans hm)

/-- Settles O6: the write of CMD asks for the command. -/
theorem stepRunsIssuedCommand : Obligations.StepRunsIssuedCommand :=
  fun _ _ _ ht hp hw hd => step_hostWrites_run ht hw (memWrite_cmd_of_ok hp hd)

/-- Settles O7: the sequencer asks for the pending command. -/
theorem stepCompletesPendingCommand : Obligations.StepCompletesPendingCommand :=
  fun _ _ => step_sequencer

/-- Settles O59: the write is dropped, and the read returns 0. -/
theorem accessesDuringReset : Obligations.AccessesDuringReset := by
  refine fun s ht => ⟨fun a d hw => ?_, fun a n hc => ?_⟩
  · refine ⟨hostNext (resetBlock (dropTurn s)), ?_, resetBlock_sameBlock (dropTurn s), rfl⟩
    obtain hc | ⟨n, hc, -⟩ := hw <;> exact step_stmt_in_reset ht hc rfl
  · exact ⟨setHostVar n 0 (hostNext (resetBlock (dropTurn s))), step_stmt_in_reset ht hc rfl,
      resetBlock_sameBlock (dropTurn s), hostVar_setHostVar n 0 _⟩

/-- What a read returns does not depend on the turns. -/
theorem memRead_dropTurn_fst (a : WordAddr) (s : State) : (memRead a (dropTurn s)).1 = (memRead a s).1 := by
  have hresult (v : Word) : (readResult v (dropTurn s)).1 = (readResult v s).1 := by
    cases hb : s.busy
    · rw [readResult_of_idle v hb, readResult_of_idle v (s := dropTurn s) hb]
    · rw [readResult_of_busy v hb, readResult_of_busy v (s := dropTurn s) hb]; rfl
  unfold memRead
  cases regAt a with
  | state _ | gfY | rk _ _ => exact hresult _
  | _ => rfl

theorem sameBlock_refl (s : State) : SameBlock s s :=
  ⟨rfl, rfl, rfl, rfl, rfl, rfl, rfl, rfl, rfl, rfl⟩

/-- R55: a read changes nothing of the block and nothing of the host. -/
theorem memRead_frame (a : WordAddr) (s : State) : SameBlock s (memRead a s).2 ∧ (memRead a s).2.host = s.host := by
  obtain h | ⟨-, h⟩ := memRead_snd a s <;> rw [h] <;> exact ⟨sameBlock_refl s, rfl⟩

theorem sameBlock_setHostVar_hostNext {s t : State} (n : Nat) (v : Word) (h : SameBlock s t) :
    SameBlock s (setHostVar n v (hostNext t)) := h

/-- R86, `RD`. -/
theorem step_rd {s : State} {a : WordAddr} {n : Nat} (ht : s.turn = .host)
    (hc : s.host.prog[s.host.pc]? = some (.rd a n)) :
    ∃ t, step s = .next t ∧ SameBlock s t ∧ hostVar t n = (memRead a s).1 ∧
      (∀ m, m ≠ n → hostVar t m = hostVar s m) ∧ t.host.pc = s.host.pc + 1 := by
  have hstmt : hostStmt true (.rd a n) (dropTurn s) =
      .settled (setHostVar n (memRead a (dropTurn s)).1 (hostNext (memRead a (dropTurn s)).2)) := rfl
  obtain ⟨hblock, hhost⟩ := memRead_frame a (dropTurn s)
  rw [memRead_dropTurn_fst] at hstmt
  generalize (memRead a (dropTurn s)).2 = u at hstmt hblock hhost
  refine ⟨_, step_stmt ht hc hstmt, sameBlock_setHostVar_hostNext n _ hblock, hostVar_setHostVar n _ _,
    fun m hm => ?_, congrArg (·.pc + 1) hhost⟩
  rw [hostVar_setHostVar_of_ne _ _ hm]
  change (findVar u.host.vars m).getD (Config.hostVar m) = _
  rw [hhost]
  rfl

/-- R86: the word `MOV`, `ADDI`, `ANDI`, `ORI` and `SHLI` put into `$n`, modulo 2^32. -/
theorem hostStmt_of_value {n : Nat} {v : Word} {c : HostStmt} {s : State}
    (h : c = .mov n v ∨ (∃ k, c = .addi n k ∧ v = BitVec.ofNat 32 ((hostVar s n).toNat + k.toNat)) ∨
      (∃ k, c = .andi n k ∧ v = hostVar s n &&& k) ∨ (∃ k, c = .ori n k ∧ v = hostVar s n ||| k) ∨
      (∃ k, c = .shli n k ∧ v = BitVec.ofNat 32 ((hostVar s n).toNat * 2 ^ k))) :
    hostStmt true c (dropTurn s) = .settled (setHostVar n v (hostNext (dropTurn s))) := by
  obtain rfl | ⟨k, rfl, rfl⟩ | ⟨k, rfl, rfl⟩ | ⟨k, rfl, rfl⟩ | ⟨k, rfl, rfl⟩ := h
  · rfl
  · have hadd : hostVar s n + k = BitVec.ofNat 32 ((hostVar s n).toNat + k.toNat) := rfl
    exact congrArg (fun v => Action.settled (setHostVar n v (hostNext (dropTurn s)))) hadd
  · rfl
  · rfl
  · have hshift : hostVar s n <<< k = BitVec.ofNat 32 ((hostVar s n).toNat * 2 ^ k) :=
      BitVec.eq_of_toNat_eq (by simp [Nat.shiftLeft_eq])
    exact congrArg (fun v => Action.settled (setHostVar n v (hostNext (dropTurn s)))) hshift

/-- R86: a statement that puts v into `$n` and goes on. -/
theorem step_value {s : State} {n : Nat} {v : Word} {c : HostStmt} (ht : s.turn = .host)
    (hc : s.host.prog[s.host.pc]? = some c)
    (h : hostStmt true c (dropTurn s) = .settled (setHostVar n v (hostNext (dropTurn s)))) :
    ∃ t, step s = .next t ∧ SameBlock s t ∧ t.draws = s.draws ∧ hostVar t n = v ∧
      (∀ m, m ≠ n → hostVar t m = hostVar s m) ∧ t.host.pc = s.host.pc + 1 :=
  ⟨_, step_stmt ht hc h, sameBlock_setHostVar_hostNext n v (sameBlock_refl s), rfl, hostVar_setHostVar n v _,
    fun _ hm => hostVar_setHostVar_of_ne v _ hm, rfl⟩

/-- R86: the host goes on at statement j, and nothing else changes. -/
theorem step_goto {s : State} {j : Nat} {c : HostStmt} (ht : s.turn = .host)
    (hc : s.host.prog[s.host.pc]? = some c) (h : hostStmt true c (dropTurn s) = .settled (hostGoto j (dropTurn s))) :
    ∃ t, step s = .next t ∧ SameBlock s t ∧ t.host = { s.host with pc := j } :=
  ⟨_, step_stmt ht hc h, sameBlock_refl s, rfl⟩

/-- R86: where `BNZ` and `BZ` go on. -/
theorem hostStmt_branch {n k : Nat} {c : HostStmt} (s : State) (h : c = .bnz n k ∨ c = .bz n k) :
    hostStmt true c (dropTurn s) = .settled (hostGoto
      (if (c = .bnz n k ∧ hostVar s n ≠ 0) ∨ (c = .bz n k ∧ hostVar s n = 0) then k else s.host.pc + 1)
      (dropTurn s)) := by
  have hvar : hostVar (dropTurn s) n = hostVar s n := rfl
  obtain rfl | rfl := h
  · simp only [hostStmt, hvar, hostNext, true_and, false_and, or_false, reduceCtorEq,
      apply_ite (hostGoto · (dropTurn s))]
    rfl
  · simp only [hostStmt, hvar, hostNext, true_and, false_and, false_or, reduceCtorEq,
      apply_ite (hostGoto · (dropTurn s))]
    rfl

/-- Log entry 7: a host at HALT, or at no statement, stays there. -/
theorem hostMove_of_stopped {s : State}
    (h : s.host.prog[s.host.pc]? = some .halt ∨ s.host.prog[s.host.pc]? = none) :
    hostMove true s = .settled s := by
  obtain h | h := h
  · exact hostMove_stmt h
  · simp [hostMove, h]

/-- Settles O60: each of the host statements. -/
theorem hostStatements : Obligations.HostStatements := by
  refine fun s ht => ⟨fun a v t hw => ⟨step_hostWrites ht hw, fun i => step_hostWrites_run ht hw⟩,
    fun a n => step_rd ht, fun n v c hv hc => step_value ht hc (hostStmt_of_value hv),
    fun n k c hb hc => step_goto ht hc (hostStmt_branch s hb), fun h => ?_⟩
  exact ⟨_, step_host_settled ht (hostMove_of_stopped (s := dropTurn s) h), sameBlock_refl s, rfl⟩

end Sys2Proof.Machine
